-- ==== Sys2Proof/Word.lean ====
section
/-! DEFINITION. The word types of the RAEC DSP core: a sample, a command word and the four fields of a command word
(spec/30_encoding.md R101), and nothing that a later repair could need to mend. -/

namespace Sys2Proof

/-- A sample: one binary32 bit pattern (spec/00_scope.md R13, spec/20_memory.md R71). -/
abbrev Sample := BitVec 32

/-- A command word, format C, 64 bits (R101). -/
abbrev Command := BitVec 64

/-- The sample `+0.0`, the core's silence (R17, R208). -/
abbrev silence : Sample := 0x00000000

/-- `zeros(n)`: the sequence of n samples `+0.0` (R17). -/
def zeros (n : Nat) : List Sample := List.replicate n silence

end Sys2Proof
end

