-- ==== Sys2Proof/Config.lean ====
section
/-! DEFINITION. The implementation parameters of spec/00_scope.md R8 as plain data, the values of the parameters that
the spec leaves OPEN, and the free values (the draws of R21 and the NaN patterns of spec/93 U26). A free value and an
OPEN parameter is an opaque constant without a body, so nothing can be proved of it but the law the spec gives, which
the function that reads it puts in (`toFinite`, `toPositive`, `toCapacity`). -/

namespace Sys2Proof

/-- The five coefficients of one biquad, registers `b0 b1 b2 a1 a2` (spec/10_state.md R40). -/
structure Coefs where
  b0 : Sample
  b1 : Sample
  b2 : Sample
  a1 : Sample
  a2 : Sample
  deriving DecidableEq, Repr

namespace Config

/-- A pattern whose exponent field is not 255: neither an infinity nor a NaN (R13). -/
abbrev IsFinite (x : Sample) : Prop := x &&& 0x7F800000 ≠ 0x7F800000

/-- The law "finite" of R8 and R21 put on raw bits: a finite pattern is kept, any other has its exponent field cleared.
Every finite pattern is reached. -/
def toFinite (x : Sample) : Sample :=
  if x &&& 0x7F800000 = 0x7F800000 then x &&& 0x807FFFFF else x

/-- The law "finite and greater than zero" of R9 put on raw bits. Every finite positive pattern is reached. -/
def toPositive (x : Sample) : Sample :=
  if toFinite x &&& 0x7FFFFFFF = 0 then 1 else toFinite x &&& 0x7FFFFFFF

/-- The law `1 ≤ CAP < 2^32` of R8 put on a natural number. Every legal capacity is reached. -/
def toCapacity (n : Nat) : Nat := n % (2 ^ 32 - 1) + 1

/-- OPEN parameter `EPS`, raw bits (R8, R9; decision D24). -/
opaque epsBits : BitVec 32
/-- OPEN parameter `CAP_MIC`, raw (R8; decision D23). -/
opaque capMicRaw : Nat
/-- OPEN parameter `CAP_REF`, raw (R8; decision D23). -/
opaque capRefRaw : Nat
/-- OPEN parameter `CAP_OUT`, raw (R8; decision D23). -/
opaque capOutRaw : Nat

/-- Free value: element `i` of the draw `W0` numbered `k` (spec/10_state.md R60, decision D25). -/
opaque w0Bits : (k i : Nat) → BitVec 32
/-- Free value: the draw `g` of R179 numbered `k`, true for `apply`. -/
opaque drawApply : (k : Nat) → Bool
/-- Free value: the novelty returned when a compared product is a NaN (R179), draw `k`. -/
opaque drawNovelty : (k : Nat) → BitVec 32
/-- Free value: whether the `UNPARK` numbered `k` is delivered (R230). -/
opaque drawDelivered : (k : Nat) → Bool
/-- Free value: `elapsed_seconds` of the telemetry word numbered `k` (R212). -/
opaque drawElapsed : (k : Nat) → BitVec 32
/-- Free value: bits of the NaN that operation number `op` produces on operands `a` and `b`
(R13, spec/93_implementation_defined.md U26). -/
opaque nanBits : (op : Nat) → (a b : BitVec 32) → BitVec 32
/-- Free value: bits of coefficient number `j` of `coef` at a cutoff for which the spec prints no value
(spec/41_biquad.md R152, R153, decision D35); `highPass` tells the two modes apart. -/
opaque coefBits : (highPass : Bool) → (cutoff : BitVec 32) → (fs j : Nat) → BitVec 32

/-- OPEN parameter `NUM`, `fadd` of the record numbered `k` (R8, R13). -/
opaque otherFadd : (k : Nat) → (a b : BitVec 32) → BitVec 32
/-- OPEN parameter `NUM`, `fsub` of the record numbered `k` (R8, R13). -/
opaque otherFsub : (k : Nat) → (a b : BitVec 32) → BitVec 32
/-- OPEN parameter `NUM`, `fmul` of the record numbered `k` (R8, R13). -/
opaque otherFmul : (k : Nat) → (a b : BitVec 32) → BitVec 32
/-- OPEN parameter `NUM`, `fdiv` of the record numbered `k` (R8, R13). -/
opaque otherFdiv : (k : Nat) → (a b : BitVec 32) → BitVec 32
/-- OPEN parameter `NUM`, `fabs` of the record numbered `k` (R8, R13). -/
opaque otherFabs : (k : Nat) → (a : BitVec 32) → BitVec 32
/-- OPEN parameter `NUM`, `flt` of the record numbered `k` (R8, R13). -/
opaque otherFlt : (k : Nat) → (a b : BitVec 32) → Bool
/-- OPEN parameter `NUM`, `fgt` of the record numbered `k` (R8, R13). -/
opaque otherFgt : (k : Nat) → (a b : BitVec 32) → Bool
/-- OPEN parameter `NUM`, `isnan` of the record numbered `k` (R8, R13). -/
opaque otherIsnan : (k : Nat) → (a : BitVec 32) → Bool
/-- OPEN parameter `NUM`, `u2f` of the record numbered `k` (R8, R13). -/
opaque otherU2f : (k n : Nat) → BitVec 32
/-- OPEN parameter `NUM`, `NUM.sum` of the record numbered `k` (R8, R15). -/
opaque otherSum : (k : Nat) → List (BitVec 32) → BitVec 32
/-- OPEN parameter `NUM`, `NUM.max` of the record numbered `k` (R8, R15). -/
opaque otherMax : (k : Nat) → List (BitVec 32) → BitVec 32

/-- Elements `i` to `i + n - 1` of the draw `W0` numbered `k`. -/
def w0From (k i : Nat) : Nat → List Sample
  | 0 => []
  | n + 1 => toFinite (w0Bits k i) :: w0From k (i + 1) n

/-- The draw `W0` numbered `k`: `n` finite samples (R60). -/
def w0 (k n : Nat) : List Sample := w0From k 0 n

/-- `coef` where the spec prints no value: five finite samples, otherwise free (R152, R153, decision D35). -/
def freeCoefs (highPass : Bool) (cutoff : Sample) (fs : Nat) : Coefs :=
  { b0 := toFinite (coefBits highPass cutoff fs 0)
    b1 := toFinite (coefBits highPass cutoff fs 1)
    b2 := toFinite (coefBits highPass cutoff fs 2)
    a1 := toFinite (coefBits highPass cutoff fs 3)
    a2 := toFinite (coefBits highPass cutoff fs 4) }

/-- Reference low-pass coefficients, the default `C_LP` (spec/41_biquad.md R155). -/
def refLowPass : Coefs :=
  { b0 := 0x3D18F229, b1 := 0x3D98F229, b2 := 0x3D18F229, a1 := 0xBFB12352, a2 := 0x3F08832E }

/-- Reference high-pass coefficients, the default `C_HP` (spec/41_biquad.md R155). -/
def refHighPass : Coefs :=
  { b0 := 0x3F78FD39, b1 := 0xBFF8FD39, b2 := 0x3F78FD39, a1 := 0xBFF8E4A5, a2 := 0x3F722B9C }

end Config

/-- The parameter `NUM` of R8 as plain data: its default, or any other numerics record, by a number (log entry 9). The
functions of the record numbered `k` are the constants `Config.otherFadd k` to `Config.otherMax k`. -/
inductive NumChoice where
  /-- IEEE 754 binary32, the default (R13) -/
  | binary32
  /-- any other record of total functions, of which nothing is assumed (R13) -/
  | other (k : Nat)
  deriving DecidableEq, Repr

/-- The parameters of R8 as one record of plain data. It is fixed before reset and no step changes it (R58, R272); the
machine carries it so that a claim about every state is a claim about every configuration. -/
structure Params where
  /-- `N`, the tap count and the length of the delay line (R8, R10) -/
  n : Nat
  /-- `FS` in hertz -/
  fs : Nat
  /-- `F_LP` in hertz, a sample -/
  fLp : Sample
  /-- `F_HP` in hertz, a sample -/
  fHp : Sample
  /-- `THR0` -/
  thr0 : Sample
  /-- `MU0` -/
  mu0 : Sample
  /-- `EPS` -/
  eps : Sample
  /-- `CAP_MIC` -/
  capMic : Nat
  /-- `CAP_REF` -/
  capRef : Nat
  /-- `CAP_OUT` -/
  capOut : Nat
  /-- `TSTRIDE` -/
  tstride : Nat
  /-- `LOW_NUM` -/
  lowNum : Nat
  /-- `LOW_DEN` -/
  lowDen : Nat
  /-- `REFILL` -/
  refill : Nat
  /-- `C_LP`, which is `coef(LowPass, F_LP, FS)` -/
  cLp : Coefs
  /-- `C_HP`, which is `coef(HighPass, F_HP, FS)` -/
  cHp : Coefs
  /-- `NUM`, the numerics record (R13) -/
  num : NumChoice
  deriving DecidableEq, Repr

namespace Config

/-- The parameters of the core that `State.reset` is the reset state of: the defaults of R8 and R155, and the OPEN
parameters free under their laws. -/
def params : Params :=
  { n := 2048, fs := 48000, fLp := 0x45548000, fHp := 0x43960000, thr0 := 0x3B23D70A, mu0 := 0x3F800000
    eps := toPositive epsBits
    capMic := toCapacity capMicRaw, capRef := toCapacity capRefRaw, capOut := toCapacity capOutRaw
    tstride := 1000, lowNum := 1, lowDen := 5, refill := toCapacity capOutRaw / 2
    cLp := refLowPass, cHp := refHighPass, num := .binary32 }

end Config

end Sys2Proof
end

