-- ==== Sys2Proof/Syntax.lean ====
section
/-! DEFINITION. The operations of the core: one constructor per row of spec/opcode_table.json (the 22 operations of
spec/30_encoding.md R105, one per unit). -/

namespace Sys2Proof

/-- The three FIFO instances (spec/00_scope.md R2). -/
inductive FifoId where
  | mic | ref | out
  deriving DecidableEq, Repr

/-- The two biquad instances (R2). -/
inductive BiquadId where
  | lp | hp
  deriving DecidableEq, Repr

/-- The response modes of `BQINIT` that decode (R110). -/
inductive Mode where
  | lowPass | highPass | lowShelf | highShelf | peak
  deriving DecidableEq, Repr

/-- One operation with its operands. A sample operand is any 32-bit pattern (R107); an index or register number `i`,
`n` is a natural number that must fit `aux` (R106; `Instr.WellFormed`). -/
inductive Instr where
  | pushMic (v : Sample)
  | pushRef (v : Sample)
  | pushOut (v : Sample)
  | popMic
  | popRef
  | popOut
  | lenMic
  | lenRef
  | lenOut
  | capMic
  | capRef
  | capOut
  | isemptyMic
  | isemptyRef
  | isemptyOut
  | isfullMic
  | isfullRef
  | isfullOut
  | bqinitLp (mode : Mode) (cutoff : Sample)
  | bqinitHp (mode : Mode) (cutoff : Sample)
  | bqtickLp (x : Sample)
  | bqtickHp (x : Sample)
  | casc (x : Sample)
  | dlpush (v : Sample)
  | dlrd (i : Nat)
  | dlinit
  | adapt (target : Sample)
  | wrd (i : Nat)
  | enginit (mu : Sample)
  | iter
  | runonce
  | start
  | stop
  | unpark
  | csrr (n : Nat)
  | csrw (n : Nat) (v : Sample)
  deriving DecidableEq, Repr

end Sys2Proof
end

