-- ==== Sys2Proof/WellFormed.lean ====
section
/-! DEFINITION. Which operations can be written as a command word: an index or a register number is an unsigned 20-bit
number (spec/30_encoding.md R106). Every other operand fits its field by its type. -/

namespace Sys2Proof

/-- The operation's operands fit the fields of the command word (R101, R106). -/
def Instr.wellFormed : Instr → Bool
  | .dlrd i => i < 2 ^ 20
  | .wrd i => i < 2 ^ 20
  | .csrr n => n < 2 ^ 20
  | .csrw n _ => n < 2 ^ 20
  | .pushMic _ | .pushRef _ | .pushOut _ | .popMic | .popRef | .popOut | .lenMic | .lenRef | .lenOut
  | .capMic | .capRef | .capOut | .isemptyMic | .isemptyRef | .isemptyOut | .isfullMic | .isfullRef | .isfullOut
  | .bqinitLp _ _ | .bqinitHp _ _ | .bqtickLp _ | .bqtickHp _ | .casc _ | .dlpush _ | .dlinit | .adapt _
  | .enginit _ | .iter | .runonce | .start | .stop | .unpark => true

/-- The Prop of `Instr.wellFormed`, decidable by unfolding. -/
abbrev Instr.WellFormed (i : Instr) : Prop := i.wellFormed = true

end Sys2Proof
end

