-- ==== Sys2Proof/Decode.lean ====
section
/-! DEFINITION. The decoder and the encoder of the command word (spec/30_encoding.md R101, R104 to R112). The decoder is
total: every 64-bit word is one operation or illegal, and an illegal word is rejected by the clause of R111 it breaks. -/

namespace Sys2Proof

/-- Why a word is illegal, one constructor per clause of R111. -/
inductive Illegal where
  /-- `op` is not one of the 22 values of R105 -/
  | badOp
  /-- `unit` is not one of the values R105 allows for that `op` -/
  | badUnit
  /-- `aux` is marked "zero" and is not (for `BQINIT`: bits 19:3) -/
  | auxNotZero
  /-- `data` is marked "zero" and is not -/
  | dataNotZero
  /-- `BQINIT` with mode code 5, 6 or 7 -/
  | badModeCode
  deriving DecidableEq, Repr

/-- Field `op`, bits 63:56 (R101). -/
def opField (w : Command) : BitVec 8 := w.extractLsb' 56 8
/-- Field `unit`, bits 55:52 (R101). -/
def unitField (w : Command) : BitVec 4 := w.extractLsb' 52 4
/-- Field `aux`, bits 51:32 (R101). -/
def auxField (w : Command) : BitVec 20 := w.extractLsb' 32 20
/-- Field `data`, bits 31:0 (R101). -/
def dataField (w : Command) : BitVec 32 := w.extractLsb' 0 32

/-- The four fields put together, `op : unit : aux : data` (R101). -/
def assemble (op : BitVec 8) (unit : BitVec 4) (aux : BitVec 20) (data : BitVec 32) : Command :=
  op ++ unit ++ aux ++ data

/-- What R105's columns `aux` and `data` ask of an operation, with the operation they make. -/
inductive Form where
  /-- `aux` zero, `data` zero -/
  | plain (i : Instr)
  /-- `aux` zero, `data` a sample -/
  | sample (f : Sample → Instr)
  /-- `aux` an index or register number, `data` zero -/
  | index (f : Nat → Instr)
  /-- `aux` a register number, `data` its new value -/
  | indexValue (f : Nat → Sample → Instr)
  /-- `aux` a mode code, `data` a sample -/
  | mode (f : Mode → Sample → Instr)

/-- The opcode map of R105, by `op` and `unit` (unit numbers of R104). -/
def formOf (op unit : Nat) : Except Illegal Form :=
  match op with
  | 0x10 => match unit with
    | 0 => .ok (.sample .pushMic) | 1 => .ok (.sample .pushRef) | 2 => .ok (.sample .pushOut) | _ => .error .badUnit
  | 0x11 => match unit with
    | 0 => .ok (.plain .popMic) | 1 => .ok (.plain .popRef) | 2 => .ok (.plain .popOut) | _ => .error .badUnit
  | 0x12 => match unit with
    | 0 => .ok (.plain .lenMic) | 1 => .ok (.plain .lenRef) | 2 => .ok (.plain .lenOut) | _ => .error .badUnit
  | 0x13 => match unit with
    | 0 => .ok (.plain .capMic) | 1 => .ok (.plain .capRef) | 2 => .ok (.plain .capOut) | _ => .error .badUnit
  | 0x14 => match unit with
    | 0 => .ok (.plain .isemptyMic) | 1 => .ok (.plain .isemptyRef) | 2 => .ok (.plain .isemptyOut)
    | _ => .error .badUnit
  | 0x15 => match unit with
    | 0 => .ok (.plain .isfullMic) | 1 => .ok (.plain .isfullRef) | 2 => .ok (.plain .isfullOut)
    | _ => .error .badUnit
  | 0x20 => match unit with
    | 3 => .ok (.mode .bqinitLp) | 4 => .ok (.mode .bqinitHp) | _ => .error .badUnit
  | 0x21 => match unit with
    | 3 => .ok (.sample .bqtickLp) | 4 => .ok (.sample .bqtickHp) | _ => .error .badUnit
  | 0x22 => match unit with
    | 7 => .ok (.sample .casc) | _ => .error .badUnit
  | 0x30 => match unit with
    | 5 => .ok (.sample .dlpush) | _ => .error .badUnit
  | 0x31 => match unit with
    | 5 => .ok (.index .dlrd) | _ => .error .badUnit
  | 0x32 => match unit with
    | 5 => .ok (.plain .dlinit) | _ => .error .badUnit
  | 0x40 => match unit with
    | 6 => .ok (.sample .adapt) | _ => .error .badUnit
  | 0x41 => match unit with
    | 6 => .ok (.index .wrd) | _ => .error .badUnit
  | 0x50 => match unit with
    | 7 => .ok (.sample .enginit) | _ => .error .badUnit
  | 0x51 => match unit with
    | 7 => .ok (.plain .iter) | _ => .error .badUnit
  | 0x52 => match unit with
    | 7 => .ok (.plain .runonce) | _ => .error .badUnit
  | 0x60 => match unit with
    | 8 => .ok (.plain .start) | _ => .error .badUnit
  | 0x61 => match unit with
    | 8 => .ok (.plain .stop) | _ => .error .badUnit
  | 0x62 => match unit with
    | 8 => .ok (.plain .unpark) | _ => .error .badUnit
  | 0x70 => match unit with
    | 9 => .ok (.index .csrr) | _ => .error .badUnit
  | 0x71 => match unit with
    | 9 => .ok (.indexValue .csrw) | _ => .error .badUnit
  | _ => .error .badOp

/-- The mode codes of R110; 5 to 7 are reserved. -/
def modeOfCode (c : Nat) : Option Mode :=
  match c with
  | 0 => some .lowPass
  | 1 => some .highPass
  | 2 => some .lowShelf
  | 3 => some .highShelf
  | 4 => some .peak
  | _ => none

/-- The code of a mode (R110). -/
def Mode.code : Mode → Nat
  | .lowPass => 0
  | .highPass => 1
  | .lowShelf => 2
  | .highShelf => 3
  | .peak => 4

/-- Reads the operands of a form and checks its must-be-zero fields (R105, R106, R110, R111). -/
def Form.read (f : Form) (aux : BitVec 20) (data : Sample) : Except Illegal Instr :=
  match f with
  | .plain i => if aux ≠ 0 then .error .auxNotZero else if data ≠ 0 then .error .dataNotZero else .ok i
  | .sample g => if aux ≠ 0 then .error .auxNotZero else .ok (g data)
  | .index g => if data ≠ 0 then .error .dataNotZero else .ok (g aux.toNat)
  | .indexValue g => .ok (g aux.toNat data)
  | .mode g =>
    if aux.toNat / 8 ≠ 0 then .error .auxNotZero
    else match modeOfCode (aux.toNat % 8) with
      | some m => .ok (g m data)
      | none => .error .badModeCode

/-- The decoder: total on 64-bit words (R111). -/
def decode (w : Command) : Except Illegal Instr :=
  match formOf (opField w).toNat (unitField w).toNat with
  | .ok f => f.read (auxField w) (dataField w)
  | .error e => .error e

/-- The encoder: the command word of a well-formed operation (R101, R104, R105, R110). -/
def encode : Instr → Command
  | .pushMic v => assemble 0x10 0 0 v
  | .pushRef v => assemble 0x10 1 0 v
  | .pushOut v => assemble 0x10 2 0 v
  | .popMic => assemble 0x11 0 0 0
  | .popRef => assemble 0x11 1 0 0
  | .popOut => assemble 0x11 2 0 0
  | .lenMic => assemble 0x12 0 0 0
  | .lenRef => assemble 0x12 1 0 0
  | .lenOut => assemble 0x12 2 0 0
  | .capMic => assemble 0x13 0 0 0
  | .capRef => assemble 0x13 1 0 0
  | .capOut => assemble 0x13 2 0 0
  | .isemptyMic => assemble 0x14 0 0 0
  | .isemptyRef => assemble 0x14 1 0 0
  | .isemptyOut => assemble 0x14 2 0 0
  | .isfullMic => assemble 0x15 0 0 0
  | .isfullRef => assemble 0x15 1 0 0
  | .isfullOut => assemble 0x15 2 0 0
  | .bqinitLp m c => assemble 0x20 3 (BitVec.ofNat 20 m.code) c
  | .bqinitHp m c => assemble 0x20 4 (BitVec.ofNat 20 m.code) c
  | .bqtickLp x => assemble 0x21 3 0 x
  | .bqtickHp x => assemble 0x21 4 0 x
  | .casc x => assemble 0x22 7 0 x
  | .dlpush v => assemble 0x30 5 0 v
  | .dlrd i => assemble 0x31 5 (BitVec.ofNat 20 i) 0
  | .dlinit => assemble 0x32 5 0 0
  | .adapt t => assemble 0x40 6 0 t
  | .wrd i => assemble 0x41 6 (BitVec.ofNat 20 i) 0
  | .enginit mu => assemble 0x50 7 0 mu
  | .iter => assemble 0x51 7 0 0
  | .runonce => assemble 0x52 7 0 0
  | .start => assemble 0x60 8 0 0
  | .stop => assemble 0x61 8 0 0
  | .unpark => assemble 0x62 8 0 0
  | .csrr n => assemble 0x70 9 (BitVec.ofNat 20 n) 0
  | .csrw n v => assemble 0x71 9 (BitVec.ofNat 20 n) v

/-- The command word of a table row's `nbits` low bits, the bits above them zero. There is one word length, 64 bits
(R101), and no byte order (spec/20_memory.md R72). -/
def tableWord (nbits w : Nat) : Command := BitVec.ofNat 64 (w % 2 ^ nbits)

/-- The instruction the decoder reads from the word `w` of a table row of `nbits` bits. -/
def decodeTableWord (nbits w : Nat) : Option Instr :=
  match decode (tableWord nbits w) with
  | .ok i => some i
  | .error _ => none

end Sys2Proof
end

