-- ==== Sys2Proof/Machine/State.lean ====
section
/-! DEFINITION. The state of the core (spec/10_state.md R30), plain data throughout, and the reset event
(spec/70_reset_and_hazards.md R270). The fields of the last block of `State` are the model's own: the inputs that the
spec quantifies over (which agent steps next, the command words the agents issue), the outputs (the response words) and
the two transactions that take more than one step. -/

namespace Sys2Proof.Machine

/-- A sample FIFO: capacity and contents, oldest first (R31). -/
structure Fifo where
  cap : Nat
  buf : List Sample
  deriving DecidableEq, Repr

/-- A biquad: five coefficients (R40) and the history `x1 x2 y1 y2` (R41). -/
structure Biquad where
  c : Coefs
  x1 : Sample
  x2 : Sample
  y1 : Sample
  y2 : Sample
  deriving DecidableEq, Repr

/-- The scheduler state (R46). -/
inductive Sched where
  | idle | running | stopRequested | stopped | faulted
  deriving DecidableEq, Repr

/-- The sequencer phase `ph` (R47). -/
inductive Phase where
  | check | drain | lowtest | refill | decide | parked
  deriving DecidableEq, Repr

/-- The four command ports (spec/30_encoding.md R100). -/
inductive Port where
  | mic | ref | out | ctl
  deriving DecidableEq, Repr

/-- The five agents (spec/00_scope.md R11). -/
inductive Agent where
  | mic | ref | out | eng | ctl
  deriving DecidableEq, Repr

/-- One entry of the schedule: a step of an agent, or the external reset event (R80, R270). -/
inductive Turn where
  | agent (a : Agent)
  | reset
  deriving DecidableEq, Repr

/-- The status codes of a response (spec/60_exceptions.md R241); no other code exists. -/
inductive Status where
  | ok | full | empty | noWork | illegalOp | notOwner | busy | faulted | badIndex | badMode | badParam | badState
  | panic | nanWeight
  deriving DecidableEq, Repr

/-- A response on a command port: format S of R102, with the port it is given on. -/
structure Response where
  port : Port
  st : Status
  d1 : BitVec 32
  d0 : BitVec 32
  deriving DecidableEq, Repr

/-- A telemetry word: format T of R103. -/
structure TelemetryWord where
  elapsed : Sample
  micFill : Sample
  refFill : Sample
  outFill : Sample
  deriving DecidableEq, Repr

/-- The diagnostic events that the core reports (R241). -/
inductive DiagEvent where
  | outOverrun | starved | nanWeight
  deriving DecidableEq, Repr

/-- Where a `RUNONCE` issued on `P_CTL` stands between two of its atomic steps (spec/44_engine.md R206). -/
inductive RunPhase where
  | drain | lowtest | refill
  deriving DecidableEq, Repr

/-- A `RUNONCE` in progress: where it stands, and its counts `n` and `z` (R206). -/
structure RunOnce where
  phase : RunPhase
  n : Nat
  z : Nat
  deriving DecidableEq, Repr

/-- The transaction of `A_CTL` that awaits its response: none, a `STOP` that waits for the engine thread
(spec/45_run_control.md R222), or a `RUNONCE` that has more steps to take (R206). -/
inductive CtlBusy where
  | ready
  | waitStop
  | runOnce (r : RunOnce)
  deriving DecidableEq, Repr

/-- The command words that each port's agent has yet to issue, in program order (R80, R100). -/
structure Inbox where
  mic : List Command
  ref : List Command
  out : List Command
  ctl : List Command
  deriving DecidableEq, Repr

/-- The complete state (R30), the parameters it was built with (R58), and the model's own fields. -/
structure State where
  /-- the parameters of R8, constant -/
  cfg : Params
  /-- FIFO `MIC` (R31) -/
  mic : Fifo
  /-- FIFO `REF` (R31) -/
  ref : Fifo
  /-- FIFO `OUT` (R31) -/
  out : Fifo
  /-- delay line `DL`, oldest first (R34) -/
  dl : List Sample
  /-- weight vector `W` (R36) -/
  w : List Sample
  /-- `MU` (R37) -/
  mu : Sample
  /-- `EPSR` (R37) -/
  epsr : Sample
  /-- `THR` (R38) -/
  thr : Sample
  /-- biquad `LP` (R40, R41) -/
  lp : Biquad
  /-- biquad `HP` (R40, R41) -/
  hp : Biquad
  /-- `ITER`, unbounded (R44) -/
  iter : Nat
  /-- `TELEM_EN` (R45) -/
  telemEn : Bool
  /-- `SCHED` (R46) -/
  sched : Sched
  /-- `ph` (R47) -/
  ph : Phase
  /-- `worked` (R48) -/
  worked : Bool
  /-- `kill_pending` (R49) -/
  killPending : Bool
  /-- `token` (R50) -/
  token : Bool
  /-- sticky flag `FAULT` (R51) -/
  fault : Bool
  /-- sticky flag `OUT_OVERRUN` (R51) -/
  outOverrun : Bool
  /-- sticky flag `STARVED` (R51) -/
  starved : Bool
  /-- telemetry history, oldest first (R58) -/
  telemetry : List TelemetryWord
  /-- diagnostic history, oldest first (R58) -/
  diag : List DiagEvent
  /-- model's own: the transaction of `A_CTL` that awaits its response -/
  ctl : CtlBusy
  /-- model's own: the port of the command that is being run -/
  curPort : Port
  /-- model's own: command words not yet issued -/
  inbox : Inbox
  /-- model's own: the schedule, the next turn first -/
  turns : List Turn
  /-- model's own: response words given so far, oldest first -/
  responses : List Response
  /-- model's own: the number of the next free value -/
  draws : Nat
  deriving DecidableEq, Repr

/-- Why the machine stops. The core itself has one fatal event, `NaNWeight`, and that is no stop of the machine: the
spec describes its entry and what the other agents can do afterwards (R252), so it is a next state. -/
inductive Fault where
  /-- Raised by `DLRD` and `WRD` when the index is below `N` but the storage holds no such element. By R35 and R36 both
  storages have `N` elements, so no state that satisfies `Memory.wf` raises it. Safe. -/
  | noElement
  deriving DecidableEq, Repr

/-- Why an operation has no meaning here. The refusals of R241 are not among them: they are responses. -/
inductive Refusal where
  /-- An instruction whose arm of `exec` is not written yet. No arm answers so. Safe. -/
  | notModelled (mnemonic : String)
  /-- Raised by every `adapt` on a window whose length is not that of the weight vector (spec/42_adaptive.md R180). It has
  no status code (R241) and no state that satisfies `Memory.wf` raises it. Safe. -/
  | lengthMismatch
  deriving DecidableEq, Repr

/-- The result of an operation or a step. -/
abbrev StepOutcome := Host.Outcome State Fault Refusal

/-- A biquad just constructed: the coefficients, and four history samples `+0.0` (spec/41_biquad.md R151). -/
def Biquad.fresh (c : Coefs) : Biquad :=
  { c := c, x1 := silence, x2 := silence, y1 := silence, y2 := silence }

/-- The reset event with parameters `c` (R270, values of R59); the initial weights are the draw numbered `k` (R60). The
model's own fields start with nothing scheduled, issued or answered. -/
def State.boot (c : Params) (k : Nat) : State :=
  { cfg := c
    mic := { cap := c.capMic, buf := [] }
    ref := { cap := c.capRef, buf := [] }
    out := { cap := c.capOut, buf := [] }
    dl := zeros c.n
    w := Config.w0 k c.n
    mu := c.mu0, epsr := c.eps, thr := c.thr0
    lp := Biquad.fresh c.cLp
    hp := Biquad.fresh c.cHp
    iter := 0, telemEn := false
    sched := .idle, ph := .check, worked := false, killPending := false, token := false
    fault := false, outOverrun := false, starved := false
    telemetry := [], diag := []
    ctl := .ready, curPort := .ctl
    inbox := { mic := [], ref := [], out := [], ctl := [] }
    turns := [], responses := [], draws := k + 1 }

/-- The machine right after reset (R59, R270). -/
def State.reset : State := State.boot Config.params 0

end Sys2Proof.Machine
end

