-- ==== Sys2Proof/Machine/Numerics.lean ====
section
/-! DEFINITION. The numerics record `NUM` (spec/00_scope.md R13 to R15) and its default: IEEE 754 binary32, round to
nearest even, subnormals kept. Every result is computed exactly on integers and rounded once. -/

namespace Sys2Proof.Machine

/-- The numerics record of R13, with the two reductions of R15. Each field depends on its operands alone. -/
structure Numerics where
  fadd : Sample → Sample → Sample
  fsub : Sample → Sample → Sample
  fmul : Sample → Sample → Sample
  fdiv : Sample → Sample → Sample
  fabs : Sample → Sample
  flt : Sample → Sample → Bool
  fgt : Sample → Sample → Bool
  isnan : Sample → Bool
  u2f : Nat → Sample
  sum : List Sample → Sample
  max : List Sample → Sample

/-- Bit 31, the sign (R13). -/
def signBit (a : Sample) : Bool := a.msb
/-- Bits 30:23, the biased exponent (R13). -/
def expField (a : Sample) : Nat := a.toNat / 2 ^ 23 % 2 ^ 8
/-- Bits 22:0, the fraction (R13). -/
def fracField (a : Sample) : Nat := a.toNat % 2 ^ 23

/-- Exponent 255 with a non-zero fraction (R13). -/
def isNaN (a : Sample) : Bool := expField a = 255 && fracField a ≠ 0
/-- Exponent 255 with fraction 0 (R13). -/
def isInf (a : Sample) : Bool := expField a = 255 && fracField a = 0

/-- The magnitude of a finite sample in units of 2^-149, exact. An infinity gets a number above every finite one. -/
def magnitude (a : Sample) : Nat :=
  if expField a = 0 then fracField a else (2 ^ 23 + fracField a) * 2 ^ (expField a - 1)

/-- The value of a sample that is not a NaN, in units of 2^-149, exact. -/
def scaled (a : Sample) : Int := if signBit a then -(magnitude a : Int) else magnitude a

/-- A sample with the given sign and the given low 31 bits. -/
def withSign (neg : Bool) (low : Nat) : Sample := BitVec.ofNat 32 (low + if neg then 2 ^ 31 else 0)

/-- The low 31 bits of `+infinity`. -/
abbrev infLow : Nat := 0x7F800000

/-- Rounds the magnitude `n / d` (in units of 2^-149, `d` positive) to nearest, ties to even, and gives the low 31 bits of
the result; too large a magnitude gives infinity. The quantum is 2^e with e the least for which 24 bits suffice. -/
def roundLow (n d : Nat) : Nat :=
  let e := Nat.log2 (n / d) - 23
  let h := d * 2 ^ e
  let q := n / h
  let r := n % h
  let q' := if h < 2 * r ∨ (2 * r = h ∧ q % 2 = 1) then q + 1 else q
  min (q' + e * 2 ^ 23) infLow

/-- The NaN that operation number `op` makes of `a` and `b`: some NaN pattern, which one is not fixed (R13, U26). -/
def someNaN (op : Nat) (a b : Sample) : Sample :=
  let r := Config.nanBits op a b ||| 0x7F800000
  if r &&& 0x007FFFFF = 0 then r ||| 0x00400000 else r

/-- A sample with its sign turned. -/
def negate (a : Sample) : Sample := a ^^^ 0x80000000

/-- The sum of two samples that are not NaNs nor infinities of opposite signs; an exact zero is `+0.0` unless both operands
are negative. -/
def addNumbers (a b : Sample) : Sample :=
  if isInf a then a
  else if isInf b then b
  else
    let z := scaled a + scaled b
    if z = 0 then withSign (signBit a && signBit b) 0 else withSign (z < 0) (roundLow z.natAbs 1)

/-- binary32 addition (R13). -/
def fadd (a b : Sample) : Sample :=
  if isNaN a || isNaN b || (isInf a && isInf b && signBit a != signBit b) then someNaN 0 a b else addNumbers a b

/-- binary32 subtraction (R13). -/
def fsub (a b : Sample) : Sample :=
  if isNaN a || isNaN b || (isInf a && isInf b && signBit a == signBit b) then someNaN 1 a b
  else addNumbers a (negate b)

/-- binary32 multiplication (R13). -/
def fmul (a b : Sample) : Sample :=
  let neg := signBit a != signBit b
  if isNaN a || isNaN b || (isInf a && magnitude b = 0) || (magnitude a = 0 && isInf b) then someNaN 2 a b
  else if isInf a || isInf b then withSign neg infLow
  else withSign neg (roundLow (magnitude a * magnitude b) (2 ^ 149))

/-- binary32 division (R13). -/
def fdiv (a b : Sample) : Sample :=
  let neg := signBit a != signBit b
  if isNaN a || isNaN b || (isInf a && isInf b) || (magnitude a = 0 && magnitude b = 0) then someNaN 3 a b
  else if isInf a || magnitude b = 0 then withSign neg infLow
  else if isInf b then withSign neg 0
  else withSign neg (roundLow (magnitude a * 2 ^ 149) (magnitude b))

/-- Clears bit 31 (R13). -/
def fabs (a : Sample) : Sample := a &&& 0x7FFFFFFF

/-- `a < b`, false when either is a NaN (R13). -/
def flt (a b : Sample) : Bool := !isNaN a && !isNaN b && scaled a < scaled b

/-- `a > b`, false when either is a NaN (R13). -/
def fgt (a b : Sample) : Bool := flt b a

/-- An unsigned integer as a sample (R13). -/
def u2f (n : Nat) : Sample := withSign false (roundLow (n * 2 ^ 149) 1)

/-- The sum of R15: from index 0 upward, the accumulator starting at `+0.0`. -/
def sumSeq (add : Sample → Sample → Sample) (t : List Sample) : Sample := t.foldl add silence

/-- The maximum of R15: from `t[0]` upward with a strict comparison. (`N ≥ 1`, so the list is not empty.) -/
def maxSeq (gt : Sample → Sample → Bool) (t : List Sample) : Sample :=
  match t with
  | [] => silence
  | a :: rest => rest.foldl (fun m x => if gt x m then x else m) a

/-- The default `NUM` (R13, R15; decisions D4, D6). -/
def binary32 : Numerics :=
  { fadd := fadd, fsub := fsub, fmul := fmul, fdiv := fdiv, fabs := fabs, flt := flt, fgt := fgt, isnan := isNaN
    u2f := u2f, sum := sumSeq fadd, max := maxSeq fgt }

/-- The numerics record numbered `k`, another than the default: each function depends on its operands alone and nothing else
is known of it (R13). -/
def otherNumerics (k : Nat) : Numerics :=
  { fadd := Config.otherFadd k, fsub := Config.otherFsub k, fmul := Config.otherFmul k, fdiv := Config.otherFdiv k
    fabs := Config.otherFabs k, flt := Config.otherFlt k, fgt := Config.otherFgt k, isnan := Config.otherIsnan k
    u2f := Config.otherU2f k, sum := Config.otherSum k, max := Config.otherMax k }

/-- The record that the parameter `NUM` stands for (R8, R13). -/
def numerics : NumChoice → Numerics
  | .binary32 => binary32
  | .other k => otherNumerics k

/-- `NUM` of the configuration: all sample arithmetic of the core goes through it (R13). -/
def State.num (s : State) : Numerics := numerics s.cfg.num

end Sys2Proof.Machine
end

