-- ==== Sys2Proof/Machine/Flags.lean ====
section
/-! DEFINITION. Flags and the words made of them: the derived flags of a FIFO (spec/10_state.md R52), the condition of
the drain loop and the low-water test (spec/44_engine.md R202, R207), the register `STATUS` (R56) and the register
`CTRL` (R57), and the status codes (spec/60_exceptions.md R241). -/

namespace Sys2Proof.Machine

/-- `Q.empty` (R52). -/
def Fifo.isEmpty (q : Fifo) : Bool := q.buf.length = 0

/-- `Q.full` (R52). -/
def Fifo.isFull (q : Fifo) : Bool := q.buf.length = q.cap

/-- The loop condition `cond` (R202). -/
def State.cond (s : State) : Bool :=
  0 < s.mic.buf.length && 0 < s.ref.buf.length && s.out.buf.length < s.out.cap

/-- The low-water test of R207, in exact integers. -/
def State.lowWater (s : State) : Bool := s.cfg.lowDen * s.out.buf.length < s.cfg.lowNum * s.out.cap

/-- The code of `SCHED` (R46). -/
def Sched.code : Sched → Nat
  | .idle => 0
  | .running => 1
  | .stopRequested => 2
  | .stopped => 3
  | .faulted => 4

/-- The code of `ph` (R47). -/
def Phase.code : Phase → Nat
  | .check => 0
  | .drain => 1
  | .lowtest => 2
  | .refill => 3
  | .decide => 4
  | .parked => 5

/-- The register `STATUS` (R56). -/
def State.statusWord (s : State) : BitVec 32 :=
  BitVec.ofNat 32
    (s.sched.code + s.fault.toNat * 2 ^ 3 + s.outOverrun.toNat * 2 ^ 4 + s.starved.toNat * 2 ^ 5 + s.ph.code * 2 ^ 8
      + s.worked.toNat * 2 ^ 11 + s.killPending.toNat * 2 ^ 12 + s.token.toNat * 2 ^ 13)

/-- The register `CTRL` (R57). -/
def State.ctrlWord (s : State) : BitVec 32 := BitVec.ofNat 32 s.telemEn.toNat

/-- The status code in the field `st` (R241). -/
def Status.code : Status → BitVec 8
  | .ok => 0x00
  | .full => 0x01
  | .empty => 0x02
  | .noWork => 0x03
  | .illegalOp => 0x10
  | .notOwner => 0x11
  | .busy => 0x12
  | .faulted => 0x13
  | .badIndex => 0x14
  | .badMode => 0x15
  | .badParam => 0x16
  | .badState => 0x17
  | .panic => 0x20
  | .nanWeight => 0x21

/-- The response word, format S: `st : d1 : d0` (spec/30_encoding.md R102). -/
def Response.toWord (r : Response) : BitVec 72 := r.st.code ++ r.d1 ++ r.d0

/-- The telemetry word, format T (spec/30_encoding.md R103). -/
def TelemetryWord.toWord (t : TelemetryWord) : BitVec 128 := t.elapsed ++ t.micFill ++ t.refFill ++ t.outFill

/-- A truth value as a result: 1 for true, 0 for false (R102). -/
def truthWord (b : Bool) : BitVec 32 := if b then 1 else 0

/-- A natural number as a result, `zext_32` (R102). -/
def natWord (n : Nat) : BitVec 32 := BitVec.ofNat 32 n

end Sys2Proof.Machine
end

