-- ==== Sys2Proof/Machine/Operands.lean ====
section
/-! DEFINITION. Who may issue what (spec/30_encoding.md R113), the unit operands, and the operand checks of the
operations: the legal cutoff (spec/41_biquad.md R158), the coefficient function `coef` (R151 to R155) and the register
numbers (spec/10_state.md R55). -/

namespace Sys2Proof.Machine

/-- A port's right to an operation (R113). -/
inductive Access where
  /-- the left column of R113 -/
  | always
  /-- the right column: only while `A_CTL` holds the engine -/
  | held
  /-- in neither column -/
  | never
  deriving DecidableEq, Repr

/-- The callback port of a FIFO: `P_MIC`, `P_REF`, `P_OUT` (R113, spec/10_state.md R33). -/
def hostPort : FifoId → Port
  | .mic => .mic
  | .ref => .ref
  | .out => .out

/-- An operation of one callback alone: `PUSH MIC`, `PUSH REF`, `POP OUT`, `UNPARK` (R113). -/
def onlyOn (own : Port) (p : Port) : Access := if p = own then .always else .never

/-- An operation of the engine: issued by `A_CTL`, while it holds the engine (R113). -/
def engineOnly (p : Port) : Access := if p = .ctl then .held else .never

/-- A query of a FIFO: either half of it (R113, spec/40_fifo.md R130). -/
def eitherHalf (q : FifoId) (p : Port) : Access :=
  if p = hostPort q then .always else if p = .ctl then .held else .never

/-- An operation of the controller: `START`, `STOP`, `CSRR` (R113). -/
def controller (p : Port) : Access := if p = .ctl then .always else .never

/-- The issuer of `PUSH`: the producer of the FIFO (spec/10_state.md R33, spec/40_fifo.md R130). -/
def producerOf : FifoId → Port → Access
  | .mic => onlyOn .mic
  | .ref => onlyOn .ref
  | .out => engineOnly

/-- The issuer of `POP`: the consumer of the FIFO (R33, R130). -/
def consumerOf : FifoId → Port → Access
  | .mic => engineOnly
  | .ref => engineOnly
  | .out => onlyOn .out

/-- A port that may issue the operation after reset: the callback's where it has one, else `P_CTL` (R113). -/
def homePort : Instr → Port
  | .pushMic _ | .lenMic | .capMic | .isemptyMic | .isfullMic | .unpark => .mic
  | .pushRef _ | .lenRef | .capRef | .isemptyRef | .isfullRef => .ref
  | .popOut | .lenOut | .capOut | .isemptyOut | .isfullOut => .out
  | .pushOut _ | .popMic | .popRef | .bqinitLp _ _ | .bqinitHp _ _ | .bqtickLp _ | .bqtickHp _ | .casc _
  | .dlpush _ | .dlrd _ | .dlinit | .adapt _ | .wrd _ | .enginit _ | .iter | .runonce | .start | .stop
  | .csrr _ | .csrw _ _ => .ctl

/-- The agent of a port (R100). -/
def Port.agent : Port → Agent
  | .mic => .mic
  | .ref => .ref
  | .out => .out
  | .ctl => .ctl

/-- The words waiting at a port. -/
def Inbox.at (b : Inbox) : Port → List Command
  | .mic => b.mic
  | .ref => b.ref
  | .out => b.out
  | .ctl => b.ctl

/-- The inbox with other words waiting at a port. -/
def Inbox.put (b : Inbox) (p : Port) (ws : List Command) : Inbox :=
  match p with
  | .mic => { b with mic := ws }
  | .ref => { b with ref := ws }
  | .out => { b with out := ws }
  | .ctl => { b with ctl := ws }

/-- `A_CTL` holds the engine (spec/10_state.md R43). -/
def Sched.held : Sched → Bool
  | .idle | .stopped => true
  | .running | .stopRequested | .faulted => false

/-- The engine thread exists (R43, R46). -/
def Sched.threadRuns : Sched → Bool
  | .running | .stopRequested => true
  | .idle | .stopped | .faulted => false

/-- The FIFO that a unit operand selects (spec/40_fifo.md R130). -/
def State.fifo (s : State) : FifoId → Fifo
  | .mic => s.mic
  | .ref => s.ref
  | .out => s.out

/-- The state with another value of one FIFO. -/
def State.setFifo (s : State) (q : FifoId) (f : Fifo) : State :=
  match q with
  | .mic => { s with mic := f }
  | .ref => { s with ref := f }
  | .out => { s with out := f }

/-- The biquad that a unit operand selects (spec/41_biquad.md R150). -/
def State.biquad (s : State) : BiquadId → Biquad
  | .lp => s.lp
  | .hp => s.hp

/-- The state with another value of one biquad. -/
def State.setBiquad (s : State) (f : BiquadId) (b : Biquad) : State :=
  match f with
  | .lp => { s with lp := b }
  | .hp => { s with hp := b }

/-- The legal cutoff, `0 < cutoff` and `2*cutoff < FS`, compared as exact real numbers; a NaN and an infinity fail
(R151, R158). -/
def legalCutoff (fs : Nat) (cutoff : Sample) : Bool :=
  !isNaN cutoff && !isInf cutoff && 0 < scaled cutoff && 2 * scaled cutoff < (fs : Int) * 2 ^ 149

/-- The cutoff passes both tests of `BQINIT`: `isnan` of `NUM`, and the exact comparison (R151). -/
def State.acceptsCutoff (s : State) (cutoff : Sample) : Bool := !s.num.isnan cutoff && legalCutoff s.cfg.fs cutoff

/-- `coef(mode, cutoff, FS)`: the parameter `C_LP` or `C_HP` at the mode and cutoff it belongs to, otherwise a free value
(R152, R153, R155); undefined for the other three modes (R154). -/
def coef (c : Params) (mode : Mode) (cutoff : Sample) : Option Coefs :=
  match mode with
  | .lowPass => some (if cutoff = c.fLp then c.cLp else Config.freeCoefs false cutoff c.fs)
  | .highPass => some (if cutoff = c.fHp then c.cHp else Config.freeCoefs true cutoff c.fs)
  | .lowShelf | .highShelf | .peak => none

/-- The value of the register number `n`, none for a reserved number (spec/10_state.md R55). -/
def State.csr (s : State) (n : Nat) : Option (BitVec 32) :=
  match n with
  | 0x00 => some s.statusWord
  | 0x01 => some s.ctrlWord
  | 0x02 => some s.mu
  | 0x03 => some s.epsr
  | 0x04 => some s.thr
  | 0x05 => some (natWord s.iter)
  | 0x06 => some (natWord s.cfg.n)
  | 0x07 => some (natWord s.cfg.fs)
  | 0x08 => some s.lp.c.b0
  | 0x09 => some s.lp.c.b1
  | 0x0A => some s.lp.c.b2
  | 0x0B => some s.lp.c.a1
  | 0x0C => some s.lp.c.a2
  | 0x0D => some s.lp.x1
  | 0x0E => some s.lp.x2
  | 0x0F => some s.lp.y1
  | 0x10 => some s.lp.y2
  | 0x11 => some s.hp.c.b0
  | 0x12 => some s.hp.c.b1
  | 0x13 => some s.hp.c.b2
  | 0x14 => some s.hp.c.a1
  | 0x15 => some s.hp.c.a2
  | 0x16 => some s.hp.x1
  | 0x17 => some s.hp.x2
  | 0x18 => some s.hp.y1
  | 0x19 => some s.hp.y2
  | _ => none

end Sys2Proof.Machine
end

