-- ==== Sys2Proof/Machine/Ops.lean ====
section
/-! DEFINITION. The operations that the meanings share: giving a response, the port check, push and pop of a FIFO, the
storage well-formedness, reporting an event, and the entry of the one fault, `NaNWeight`, in one place
(spec/60_exceptions.md R252). There is no return from it but reset (R253). -/

namespace Sys2Proof.Machine

/-- Gives a response on a port (spec/30_encoding.md R102). -/
def State.answer (s : State) (p : Port) (st : Status) (d1 d0 : BitVec 32) : State :=
  { s with responses := s.responses ++ [{ port := p, st := st, d1 := d1, d0 := d0 }] }

/-- Gives the response to the command that is being run. -/
def State.reply (s : State) (st : Status) (d1 d0 : BitVec 32) : State := s.answer s.curPort st d1 d0

/-- The port check, checks (2) and (3) of R114 by the table of R113; `run` is the rest of the operation. -/
def gate (acc : Port → Access) (s : State) (run : StepOutcome) : StepOutcome :=
  match acc s.curPort with
  | .never => .next (s.reply .notOwner 0 0)
  | .always => run
  | .held =>
    match s.sched with
    | .idle | .stopped => run
    | .running | .stopRequested => .next (s.reply .busy 0 0)
    | .faulted => .next (s.reply .faulted 0 0)

/-- `PUSH` on one FIFO, none for `Full` (spec/40_fifo.md R131). -/
def Fifo.push (q : Fifo) (v : Sample) : Option Fifo :=
  if q.buf.length = q.cap then none else some { q with buf := q.buf ++ [v] }

/-- `POP` on one FIFO, none for `Empty` (spec/40_fifo.md R132). -/
def Fifo.pop (q : Fifo) : Option (Sample × Fifo) :=
  match q.buf with
  | [] => none
  | v :: rest => some (v, { q with buf := rest })

/-- `DLPUSH` on the delay line: the oldest leaves, `v` becomes the newest (spec/42_adaptive.md R172). -/
def shiftIn (dl : List Sample) (v : Sample) : List Sample := dl.tail ++ [v]

/-- The three storages keep their form: `DL` and `W` hold `N` samples, no FIFO holds more than its capacity
(spec/10_state.md R32, R35, R36). This is the core's only memory (spec/20_memory.md R70). -/
def Memory.wf (s : State) : Bool :=
  s.dl.length = s.cfg.n && s.w.length = s.cfg.n && s.mic.buf.length ≤ s.mic.cap && s.ref.buf.length ≤ s.ref.cap
    && s.out.buf.length ≤ s.out.cap

/-- `report <Event>`: sets the event's sticky flag and appends it to the diagnostic history
(spec/00_scope.md R19, spec/10_state.md R51, R241). -/
def State.report (s : State) (e : DiagEvent) : State :=
  match e with
  | .outOverrun => { s with outOverrun := true, diag := s.diag ++ [.outOverrun] }
  | .starved => { s with starved := true, diag := s.diag ++ [.starved] }
  | .nanWeight => { s with fault := true, diag := s.diag ++ [.nanWeight] }

/-- Fault entry (R252): `FAULT` and the event, `SCHED` becomes `FAULTED`, nothing else changes. -/
def State.raiseNaNWeight (s : State) : State := { s.report .nanWeight with sched := .faulted }

/-- Reads element `i` of a storage of `n` words (`DLRD`, `WRD`; spec/20_memory.md R74, spec/42_adaptive.md R173, R181). -/
def readStorage (n : Nat) (store : List Sample) (i : Nat) (s : State) : StepOutcome :=
  if n ≤ i then .next (s.reply .badIndex 0 0)
  else match store[i]? with
    | some v => .next (s.reply .ok 0 v)
    | none => .fault .noElement

/-- The reset event while the core is in use: everything is built again from the same parameters with a fresh draw of the
weights (R60, R270); what the agents have yet to issue and the schedule are not the core's and stay. -/
def State.resetEvent (s : State) : State :=
  { State.boot s.cfg s.draws with inbox := s.inbox, turns := s.turns }

end Sys2Proof.Machine
end

