-- ==== Sys2Proof/Machine/Fifo.lean ====
section
/-! DEFINITION. The meanings of the FIFO family (spec/40_fifo.md R130 to R136): `PUSH`, `POP`, `LEN`, `CAP`, `ISEMPTY`,
`ISFULL` on `MIC`, `REF` and `OUT`. -/

namespace Sys2Proof.Machine

/-- `PUSH q, v` after the port check (R131). -/
def pushCommand (q : FifoId) (v : Sample) (s : State) : State :=
  match (s.fifo q).push v with
  | none => s.reply .full 0 0
  | some f => (s.setFifo q f).reply .ok 0 0

/-- `POP q` after the port check (R132). -/
def popCommand (q : FifoId) (s : State) : State :=
  match (s.fifo q).pop with
  | none => s.reply .empty 0 0
  | some (v, f) => (s.setFifo q f).reply .ok 0 v

/-- `PUSH MIC, v` (R131). -/
def execPushMic (v : Sample) (s : State) : StepOutcome := gate (producerOf .mic) s (.next (pushCommand .mic v s))
/-- `PUSH REF, v` (R131). -/
def execPushRef (v : Sample) (s : State) : StepOutcome := gate (producerOf .ref) s (.next (pushCommand .ref v s))
/-- `PUSH OUT, v` (R131). -/
def execPushOut (v : Sample) (s : State) : StepOutcome := gate (producerOf .out) s (.next (pushCommand .out v s))

/-- `POP MIC` (R132). -/
def execPopMic (s : State) : StepOutcome := gate (consumerOf .mic) s (.next (popCommand .mic s))
/-- `POP REF` (R132). -/
def execPopRef (s : State) : StepOutcome := gate (consumerOf .ref) s (.next (popCommand .ref s))
/-- `POP OUT` (R132). -/
def execPopOut (s : State) : StepOutcome := gate (consumerOf .out) s (.next (popCommand .out s))

/-- `LEN MIC` (R133). -/
def execLenMic (s : State) : StepOutcome := gate (eitherHalf .mic) s (.next (s.reply .ok 0 (natWord s.mic.buf.length)))
/-- `LEN REF` (R133). -/
def execLenRef (s : State) : StepOutcome := gate (eitherHalf .ref) s (.next (s.reply .ok 0 (natWord s.ref.buf.length)))
/-- `LEN OUT` (R133). -/
def execLenOut (s : State) : StepOutcome := gate (eitherHalf .out) s (.next (s.reply .ok 0 (natWord s.out.buf.length)))

/-- `CAP MIC` (R134). -/
def execCapMic (s : State) : StepOutcome := gate (eitherHalf .mic) s (.next (s.reply .ok 0 (natWord s.mic.cap)))
/-- `CAP REF` (R134). -/
def execCapRef (s : State) : StepOutcome := gate (eitherHalf .ref) s (.next (s.reply .ok 0 (natWord s.ref.cap)))
/-- `CAP OUT` (R134). -/
def execCapOut (s : State) : StepOutcome := gate (eitherHalf .out) s (.next (s.reply .ok 0 (natWord s.out.cap)))

/-- `ISEMPTY MIC` (R135). -/
def execIsemptyMic (s : State) : StepOutcome :=
  gate (eitherHalf .mic) s (.next (s.reply .ok 0 (truthWord s.mic.isEmpty)))
/-- `ISEMPTY REF` (R135). -/
def execIsemptyRef (s : State) : StepOutcome :=
  gate (eitherHalf .ref) s (.next (s.reply .ok 0 (truthWord s.ref.isEmpty)))
/-- `ISEMPTY OUT` (R135). -/
def execIsemptyOut (s : State) : StepOutcome :=
  gate (eitherHalf .out) s (.next (s.reply .ok 0 (truthWord s.out.isEmpty)))

/-- `ISFULL MIC` (R136). -/
def execIsfullMic (s : State) : StepOutcome :=
  gate (eitherHalf .mic) s (.next (s.reply .ok 0 (truthWord s.mic.isFull)))
/-- `ISFULL REF` (R136). -/
def execIsfullRef (s : State) : StepOutcome :=
  gate (eitherHalf .ref) s (.next (s.reply .ok 0 (truthWord s.ref.isFull)))
/-- `ISFULL OUT` (R136). -/
def execIsfullOut (s : State) : StepOutcome :=
  gate (eitherHalf .out) s (.next (s.reply .ok 0 (truthWord s.out.isFull)))

end Sys2Proof.Machine
end

