-- ==== Sys2Proof/Machine/Adaptive.lean ====
section
/-! DEFINITION. The delay line and the adaptive filter (spec/42_adaptive.md R170 to R181): `DLPUSH`, `DLRD`, `DLINIT`,
`ADAPT`, `WRD`. -/

namespace Sys2Proof.Machine

/-- The quantities of steps 1 to 4 of `adapt` (R175). -/
structure AdaptTerms where
  output : Sample
  error : Sample
  energy : Sample
  step : Sample
  se : Sample
  dw : List Sample
  t : List Sample
  deriving DecidableEq, Repr

/-- Steps 1 to 4 of `adapt`, from the weights before any update (R175). -/
def adaptTerms (u : Numerics) (mu epsr : Sample) (w win : List Sample) (target : Sample) : AdaptTerms :=
  let output := u.sum (List.zipWith u.fmul w win)
  let error := u.fsub target output
  let energy := u.sum (win.map fun x => u.fmul x x)
  let step := u.fdiv mu (u.fadd epsr energy)
  let se := u.fmul step error
  let dw := win.map fun x => u.fmul se x
  let t := dw.map fun d => u.fabs (u.fmul d error)
  { output := output, error := error, energy := energy, step := step, se := se, dw := dw, t := t }

/-- Some compared product is a NaN: the case that R179 leaves open. -/
def AdaptTerms.undetermined (u : Numerics) (a : AdaptTerms) : Bool := a.t.any u.isnan

/-- What `adapt` leaves: its two results, the weights, whether the update was applied, whether the check of R178 failed, and
the number of the next free value. -/
structure AdaptResult where
  output : Sample
  novelty : Sample
  w : List Sample
  applied : Bool
  nan : Bool
  draws : Nat
  deriving DecidableEq, Repr

/-- The function `adapt` (R175) with its gate (R177), its check (R178) and its open case (R179): where a compared product is
a NaN, the gate's outcome and the novelty returned are free values. -/
def adapt (u : Numerics) (mu epsr thr : Sample) (w win : List Sample) (target : Sample) (k : Nat) : AdaptResult :=
  let a := adaptTerms u mu epsr w win target
  let novelty := if a.undetermined u then Config.drawNovelty k else u.max a.t
  let applied := if a.undetermined u then Config.drawApply k else u.flt novelty thr
  let w' := if applied then List.zipWith u.fadd w a.dw else w
  { output := a.output, novelty := novelty, w := w', applied := applied, nan := applied && w'.any u.isnan
    draws := if a.undetermined u then k + 1 else k }

/-- The window has as many elements as there are weights (R180). -/
def State.windowFits (s : State) : Bool := s.dl.length = s.w.length

/-- `adapt(DL, target, THR)` on the core's registers (R176). -/
def State.adaptOn (s : State) (target : Sample) : AdaptResult :=
  adapt s.num s.mu s.epsr s.thr s.w s.dl target s.draws

/-- The state after `adapt`: the weights, and the free values used up. -/
def State.afterAdapt (s : State) (a : AdaptResult) : State := { s with w := a.w, draws := a.draws }

/-- `ADAPT target` after the port check (R176, R178, R180). -/
def adaptCommand (target : Sample) (s : State) : StepOutcome :=
  if s.windowFits then
    let a := s.adaptOn target
    let s' := s.afterAdapt a
    .next (if a.nan then s'.raiseNaNWeight.reply .nanWeight 0 0 else s'.reply .ok a.novelty a.output)
  else .refused .lengthMismatch

/-- `DLPUSH v` (R172). -/
def execDlpush (v : Sample) (s : State) : StepOutcome :=
  gate engineOnly s (.next ({ s with dl := shiftIn s.dl v }.reply .ok 0 0))

/-- `DLRD i` (R173). -/
def execDlrd (i : Nat) (s : State) : StepOutcome := gate engineOnly s (readStorage s.cfg.n s.dl i s)

/-- `DLINIT` (R171). -/
def execDlinit (s : State) : StepOutcome := gate engineOnly s (.next ({ s with dl := zeros s.cfg.n }.reply .ok 0 0))

/-- `ADAPT target` (R176). -/
def execAdapt (target : Sample) (s : State) : StepOutcome := gate engineOnly s (adaptCommand target s)

/-- `WRD i` (R181). -/
def execWrd (i : Nat) (s : State) : StepOutcome := gate engineOnly s (readStorage s.cfg.n s.w i s)

end Sys2Proof.Machine
end

