-- ==== Sys2Proof/Machine/Filter.lean ====
section
/-! DEFINITION. The meanings of the biquad family (spec/41_biquad.md R150 to R158): `BQINIT`, `BQTICK`, `CASC`. -/

namespace Sys2Proof.Machine

/-- The recurrence of `tick`, left to right, each operation rounded (R156, spec/00_scope.md R14). -/
def tickOutput (u : Numerics) (f : Biquad) (x : Sample) : Sample :=
  u.fsub
    (u.fsub (u.fadd (u.fadd (u.fmul f.c.b0 x) (u.fmul f.c.b1 f.x1)) (u.fmul f.c.b2 f.x2)) (u.fmul f.c.a1 f.y1))
    (u.fmul f.c.a2 f.y2)

/-- `tick(x)`: the output, and the history shifted by one sample (R156). -/
def tick (u : Numerics) (f : Biquad) (x : Sample) : Sample × Biquad :=
  let y := tickOutput u f x
  (y, { f with x1 := x, x2 := f.x1, y1 := y, y2 := f.y1 })

/-- The cascade: the low-pass runs first and the high-pass takes its output (R157). -/
def cascade (u : Numerics) (lp hp : Biquad) (x : Sample) : Sample × Biquad × Biquad :=
  let a := tick u lp x
  let f := tick u hp a.1
  (f.1, a.2, f.2)

/-- `BQINIT f, mode, cutoff` after the port check (R151, R154, R158). -/
def bqinitCommand (f : BiquadId) (mode : Mode) (cutoff : Sample) (s : State) : State :=
  match coef s.cfg mode cutoff with
  | none => s.reply .badMode 0 0
  | some c =>
    if s.acceptsCutoff cutoff then (s.setBiquad f (Biquad.fresh c)).reply .ok 0 0 else s.reply .badParam 0 0

/-- `BQTICK f, x` after the port check (R156). -/
def bqtickCommand (f : BiquadId) (x : Sample) (s : State) : State :=
  let r := tick s.num (s.biquad f) x
  (s.setBiquad f r.2).reply .ok 0 r.1

/-- `BQINIT LP, mode, cutoff` (R151). -/
def execBqinitLp (mode : Mode) (cutoff : Sample) (s : State) : StepOutcome :=
  gate engineOnly s (.next (bqinitCommand .lp mode cutoff s))
/-- `BQINIT HP, mode, cutoff` (R151). -/
def execBqinitHp (mode : Mode) (cutoff : Sample) (s : State) : StepOutcome :=
  gate engineOnly s (.next (bqinitCommand .hp mode cutoff s))

/-- `BQTICK LP, x` (R156). -/
def execBqtickLp (x : Sample) (s : State) : StepOutcome := gate engineOnly s (.next (bqtickCommand .lp x s))
/-- `BQTICK HP, x` (R156). -/
def execBqtickHp (x : Sample) (s : State) : StepOutcome := gate engineOnly s (.next (bqtickCommand .hp x s))

/-- `CASC x` (R157). -/
def execCasc (x : Sample) (s : State) : StepOutcome :=
  let r := cascade s.num s.lp s.hp x
  gate engineOnly s (.next ({ s with lp := r.2.1, hp := r.2.2 }.reply .ok 0 r.1))

end Sys2Proof.Machine
end

