-- ==== Sys2Proof/Machine/Engine.lean ====
section
/-! DEFINITION. The engine (spec/44_engine.md R200 to R214): `ENGINIT`, one iteration (`ITER`), telemetry, the low-water
test, the refill, and `RUNONCE` as the sequence of atomic steps it is. -/

namespace Sys2Proof.Machine

/-- Engine construction (R201). The FIFOs, the scheduler and the sticky flags are not touched. -/
def engineInit (mu : Sample) (s : State) : State :=
  { s with
    w := Config.w0 s.draws s.cfg.n, draws := s.draws + 1
    mu := mu, epsr := s.cfg.eps, thr := s.cfg.thr0
    dl := zeros s.cfg.n
    lp := Biquad.fresh s.cfg.cLp, hp := Biquad.fresh s.cfg.cHp
    iter := 0, telemEn := false }

/-- A fill ratio (R210, R211). -/
def fillRatio (u : Numerics) (q : Fifo) : Sample := u.fdiv (u.u2f q.buf.length) (u.u2f q.cap)

/-- Telemetry emission (R210); the time stamp is a free value (R212). -/
def emitTelemetry (s : State) : State :=
  { s with
    telemetry := s.telemetry ++
      [{ elapsed := Config.drawElapsed s.draws, micFill := fillRatio s.num s.mic, refFill := fillRatio s.num s.ref
         outFill := fillRatio s.num s.out }]
    draws := s.draws + 1 }

/-- How one iteration ends (R203). -/
inductive IterResult where
  /-- `cond` is false; nothing changes (R245) -/
  | noWork
  /-- the window does not fit the weights (R180) -/
  | mismatch
  /-- `NaNWeight` was raised in step 3 (R213) -/
  | nanWeight (s : State)
  /-- the push of step 5 failed (R204) -/
  | full (s : State)
  /-- the iteration completed with its two results -/
  | ok (filtered novelty : Sample) (s : State)

/-- The end of an iteration whose push succeeded: the count, and telemetry on the stride (R203 step 6, R210). -/
def countIteration (s : State) : State :=
  let s1 := { s with iter := s.iter + 1 }
  if s1.telemEn && s1.iter % s1.cfg.tstride = 0 then emitTelemetry s1 else s1

/-- Steps 4 to 6 of an iteration, after `adapt` gave `a` for the microphone sample `m` (R203, R204). -/
def finishIteration (m : Sample) (a : AdaptResult) (s : State) : IterResult :=
  let r := cascade s.num s.lp s.hp (s.num.fsub m a.output)
  let s1 := { s with lp := r.2.1, hp := r.2.2 }
  match s1.out.push r.1 with
  | none => .full (s1.report .outOverrun)
  | some f => .ok r.1 a.novelty (countIteration { s1 with out := f })

/-- One engine iteration, one atomic step (R203). -/
def iterate (s : State) : IterResult :=
  if s.cond then
    match s.mic.pop, s.ref.pop with
    | some (m, micRest), some (r, refRest) =>
      let s1 := { s with mic := micRest, ref := refRest, dl := shiftIn s.dl r }
      if s1.windowFits then
        let a := s1.adaptOn m
        let s2 := s1.afterAdapt a
        if a.nan then .nanWeight s2.raiseNaNWeight else finishIteration m a s2
      else .mismatch
    | _, _ => .noWork
  else .noWork

/-- `ITER` after the port check: the response to each way an iteration ends (R203, R204, R231). -/
def iterCommand (s : State) : StepOutcome :=
  match iterate s with
  | .noWork => .next (s.reply .noWork 0 0)
  | .mismatch => .refused .lengthMismatch
  | .nanWeight s' => .next (s'.reply .nanWeight 0 0)
  | .full s' => .next (s'.reply .full 0 0)
  | .ok filtered novelty s' => .next (s'.reply .ok novelty filtered)

/-- One push of silence into `OUT` (R208). -/
def pushSilence (s : State) : State :=
  match s.out.push silence with
  | some f => { s with out := f }
  | none => s

/-- The end of a `RUNONCE` issued on `P_CTL`: its response, and `A_CTL` is free again (R206). -/
def finishRunOnce (st : Status) (z n : Nat) (s : State) : State :=
  { s with ctl := .ready }.answer .ctl st (natWord z) (natWord n)

/-- One atomic step of a `RUNONCE` issued on `P_CTL` that stands at `r` (R206 to R208). -/
def runOnceStep (r : RunOnce) (s : State) : StepOutcome :=
  match r.phase with
  | .drain =>
    match iterate s with
    | .noWork => .next { s with ctl := .runOnce { r with phase := .lowtest } }
    | .mismatch => .refused .lengthMismatch
    | .nanWeight s' => .next (finishRunOnce .nanWeight 0 0 s')
    | .full s' => .next { s' with ctl := .runOnce { r with phase := .lowtest } }
    | .ok _ _ s' => .next { s' with ctl := .runOnce { r with n := r.n + 1 } }
  | .lowtest =>
    .next (if s.lowWater then { s.report .starved with ctl := .runOnce { r with phase := .refill } }
      else finishRunOnce .ok r.z r.n s)
  | .refill =>
    .next (if s.out.buf.length < s.cfg.refill then { pushSilence s with ctl := .runOnce { r with z := r.z + 1 } }
      else finishRunOnce .ok r.z r.n s)

/-- `ENGINIT mu` (R201). -/
def execEnginit (mu : Sample) (s : State) : StepOutcome := gate engineOnly s (.next ((engineInit mu s).reply .ok 0 0))

/-- `ITER` (R203). -/
def execIter (s : State) : StepOutcome := gate engineOnly s (iterCommand s)

/-- `RUNONCE` (R206): the first of its atomic steps; the following turns of `A_CTL` take the others. -/
def execRunonce (s : State) : StepOutcome := gate engineOnly s (runOnceStep { phase := .drain, n := 0, z := 0 } s)

end Sys2Proof.Machine
end

