-- ==== Sys2Proof/Machine/RunControl.lean ====
section
/-! DEFINITION. Run control and register access (spec/45_run_control.md R220 to R223, R230 to R233): `START`, `STOP`,
`UNPARK`, `CSRR`, `CSRW`. -/

namespace Sys2Proof.Machine

/-- `START` after the port check (R221). -/
def startCommand (s : State) : State :=
  match s.sched with
  | .faulted => s.reply .faulted 0 0
  | .running | .stopRequested => s.reply .badState 0 0
  | .idle | .stopped =>
    { s with sched := .running, ph := .check, worked := false, killPending := false, token := false }.reply .ok 0 0

/-- `STOP`, the request, after the port check (R222): its response comes with the completion of R223. -/
def stopCommand (s : State) : State :=
  match s.sched with
  | .faulted => s.reply .panic 0 0
  | .idle | .stopped => s.reply .badState 0 0
  | .running => { s with killPending := true, sched := .stopRequested, ctl := .waitStop }
  | .stopRequested => { s with ctl := .waitStop }

/-- Whether the `UNPARK` that is being run is delivered, a free value (R230). -/
def State.delivered (s : State) : Bool := Config.drawDelivered s.draws

/-- `UNPARK` after the port check (R230). -/
def unparkCommand (s : State) : State :=
  { s with token := s.token || (s.delivered && s.sched.threadRuns), draws := s.draws + 1 }.reply .ok 0 0

/-- `CSRR n` after the port check (R232). -/
def csrrCommand (n : Nat) (s : State) : State :=
  match s.csr n with
  | some v => s.reply .ok 0 v
  | none => s.reply .badIndex 0 0

/-- `CSRW n, v` after the port check (R233). -/
def csrwCommand (n : Nat) (v : BitVec 32) (s : State) : State :=
  match n with
  | 0x01 => { s with telemEn := v.getLsbD 0 }.reply .ok 0 0
  | 0x04 => { s with thr := v }.reply .ok 0 0
  | _ => s.reply .badIndex 0 0

/-- `START` (R221). -/
def execStart (s : State) : StepOutcome := gate controller s (.next (startCommand s))

/-- `STOP` (R222). -/
def execStop (s : State) : StepOutcome := gate controller s (.next (stopCommand s))

/-- `UNPARK` (R230). -/
def execUnpark (s : State) : StepOutcome := gate (onlyOn .mic) s (.next (unparkCommand s))

/-- `CSRR n` (R232). -/
def execCsrr (n : Nat) (s : State) : StepOutcome := gate controller s (.next (csrrCommand n s))

/-- `CSRW n, v` (R233). -/
def execCsrw (n : Nat) (v : Sample) (s : State) : StepOutcome := gate engineOnly s (.next (csrwCommand n v s))

end Sys2Proof.Machine
end

