-- ==== Sys2Proof/Machine/Sequencer.lean ====
section
/-! DEFINITION. The steps of the engine thread (spec/45_run_control.md R224 to R229, R231), and what a turn of the
schedule does: an engine step, the next step of a `RUNONCE`, the issue of the next command word of a port, or reset. -/

namespace Sys2Proof.Machine

/-- Phase `CHECK` (R224), with the completion of a waiting `STOP` (R223). -/
def checkStep (s : State) : State :=
  if s.killPending then
    let s1 := { s with sched := .stopped, killPending := false }
    if s1.ctl = .waitStop then { s1 with ctl := .ready }.answer .ctl .ok 0 0 else s1
  else { s with worked := false, ph := .drain }

/-- A fault raised by the engine thread: a waiting `STOP` returns `Panic` (R231). -/
def panicStop (s : State) : State :=
  if s.ctl = .waitStop then { s with ctl := .ready }.answer .ctl .panic 0 0 else s

/-- Phase `DRAIN` (R225). -/
def drainStep (s : State) : StepOutcome :=
  match iterate s with
  | .ok _ _ s' => .next { s' with worked := true }
  | .noWork => .next { s with ph := .lowtest }
  | .full s' => .next { s' with ph := .lowtest }
  | .nanWeight s' => .next (panicStop s')
  | .mismatch => .refused .lengthMismatch

/-- Phase `LOWTEST` (R226). -/
def lowtestStep (s : State) : State :=
  if s.lowWater then { s.report .starved with ph := .refill } else { s with ph := .decide }

/-- Phase `REFILL` (R227). -/
def refillStep (s : State) : State :=
  if s.out.buf.length < s.cfg.refill then pushSilence s else { s with ph := .decide }

/-- Phase `DECIDE` (R228). -/
def decideStep (s : State) : State :=
  if s.worked then { s with ph := .check }
  else if s.token then { s with token := false, ph := .check }
  else { s with ph := .parked }

/-- The wake from `PARKED`, always enabled (R229). -/
def wakeStep (s : State) : State := { s with token := false, ph := .check }

/-- One step of `A_ENG` (R224 to R229). No thread, no step: the state stays (R252, R270). -/
def engineStep (s : State) : StepOutcome :=
  if s.sched.threadRuns then
    match s.ph with
    | .check => .next (checkStep s)
    | .drain => drainStep s
    | .lowtest => .next (lowtestStep s)
    | .refill => .next (refillStep s)
    | .decide => .next (decideStep s)
    | .parked => .next (wakeStep s)
  else .next s

/-- What a turn comes to: a finished step, or an operation to run on a state. -/
inductive Fetched where
  | done (o : StepOutcome)
  | issue (i : Instr) (s : State)

/-- A port's agent issues its next command word, if there is one; an illegal word is answered `IllegalOp` with no other
change (spec/30_encoding.md R111, R114). -/
def issueNext (p : Port) (s : State) : Fetched :=
  match s.inbox.at p with
  | [] => .done (.next s)
  | w :: ws =>
    let s1 := { s with inbox := s.inbox.put p ws, curPort := p }
    match decode w with
    | .ok i => .issue i s1
    | .error _ => .done (.next (s1.reply .illegalOp 0 0))

/-- A turn of `A_CTL`: it waits for a `STOP`, goes on with a `RUNONCE`, or issues its next command (R206, R222). -/
def controllerTurn (s : State) : Fetched :=
  match s.ctl with
  | .waitStop => .done (.next s)
  | .runOnce r => .done (runOnceStep r s)
  | .ready => issueNext .ctl s

/-- One turn of the schedule. -/
def takeTurn (t : Turn) (s : State) : Fetched :=
  match t with
  | .reset => .done (.next s.resetEvent)
  | .agent .mic => issueNext .mic s
  | .agent .ref => issueNext .ref s
  | .agent .out => issueNext .out s
  | .agent .ctl => controllerTurn s
  | .agent .eng => .done (engineStep s)

/-- The turn taken when the schedule lists none: a `RUNONCE` goes on, else the engine thread steps. -/
def defaultTurn (s : State) : Turn :=
  match s.ctl with
  | .runOnce _ => .agent .ctl
  | .ready | .waitStop => .agent .eng

/-- The next turn, taken from the schedule (spec/20_memory.md R80, spec/10_state.md R58). -/
def fetch (s : State) : Fetched :=
  match s.turns with
  | [] => takeTurn (defaultTurn s) s
  | t :: ts => takeTurn t { s with turns := ts }

/-- The port on which a command word is placed to be run next: one that may issue it. -/
def portOf (w : Command) : Port :=
  match decode w with
  | .ok i => homePort i
  | .error _ => .ctl

/-- The state with a command word placed so that it is issued at the very next turn. -/
def State.place (s : State) (w : Command) : State :=
  let p := portOf w
  { s with
    inbox := s.inbox.put p (w :: s.inbox.at p)
    turns := .agent p.agent :: s.turns
    ctl := if p = .ctl then .ready else s.ctl }

end Sys2Proof.Machine
end

