-- ==== Sys2Proof/Machine/Dispatch.lean ====
section
/-! DEFINITION. The meaning of every operation, one arm per constructor of `Instr`. -/

namespace Sys2Proof.Machine

/-- Runs one operation as the command that the agent of `s.curPort` issues (spec/30_encoding.md R114, checks 2 to 5). -/
def exec (i : Instr) (s : State) : Host.Outcome State Fault Refusal :=
  match i with
  | .pushMic v => Sys2Proof.Machine.execPushMic v s
  | .pushRef v => Sys2Proof.Machine.execPushRef v s
  | .pushOut v => Sys2Proof.Machine.execPushOut v s
  | .popMic => Sys2Proof.Machine.execPopMic s
  | .popRef => Sys2Proof.Machine.execPopRef s
  | .popOut => Sys2Proof.Machine.execPopOut s
  | .lenMic => Sys2Proof.Machine.execLenMic s
  | .lenRef => Sys2Proof.Machine.execLenRef s
  | .lenOut => Sys2Proof.Machine.execLenOut s
  | .capMic => Sys2Proof.Machine.execCapMic s
  | .capRef => Sys2Proof.Machine.execCapRef s
  | .capOut => Sys2Proof.Machine.execCapOut s
  | .isemptyMic => Sys2Proof.Machine.execIsemptyMic s
  | .isemptyRef => Sys2Proof.Machine.execIsemptyRef s
  | .isemptyOut => Sys2Proof.Machine.execIsemptyOut s
  | .isfullMic => Sys2Proof.Machine.execIsfullMic s
  | .isfullRef => Sys2Proof.Machine.execIsfullRef s
  | .isfullOut => Sys2Proof.Machine.execIsfullOut s
  | .bqinitLp mode cutoff => Sys2Proof.Machine.execBqinitLp mode cutoff s
  | .bqinitHp mode cutoff => Sys2Proof.Machine.execBqinitHp mode cutoff s
  | .bqtickLp x => Sys2Proof.Machine.execBqtickLp x s
  | .bqtickHp x => Sys2Proof.Machine.execBqtickHp x s
  | .casc x => Sys2Proof.Machine.execCasc x s
  | .dlpush v => Sys2Proof.Machine.execDlpush v s
  | .dlrd idx => Sys2Proof.Machine.execDlrd idx s
  | .dlinit => Sys2Proof.Machine.execDlinit s
  | .adapt target => Sys2Proof.Machine.execAdapt target s
  | .wrd idx => Sys2Proof.Machine.execWrd idx s
  | .enginit mu => Sys2Proof.Machine.execEnginit mu s
  | .iter => Sys2Proof.Machine.execIter s
  | .runonce => Sys2Proof.Machine.execRunonce s
  | .start => Sys2Proof.Machine.execStart s
  | .stop => Sys2Proof.Machine.execStop s
  | .unpark => Sys2Proof.Machine.execUnpark s
  | .csrr n => Sys2Proof.Machine.execCsrr n s
  | .csrw n v => Sys2Proof.Machine.execCsrw n v s

end Sys2Proof.Machine
end

