-- ==== Sys2Proof/Machine/Step.lean ====
section
/-! DEFINITION. One step of the machine: the next turn of the schedule (spec/20_memory.md R80). -/

namespace Sys2Proof.Machine

/-- One step: the turn that `fetch` takes, and the operation it issues, if any. -/
def step (s : State) : Host.Outcome State Fault Refusal :=
  match fetch s with
  | .done o => o
  | .issue i s' => exec i s'

/-- The state in which the next step runs the instruction of the word `w`: it waits at a port that may issue it, the next
turn is that port's agent's, and `A_CTL` awaits no response if the port is `P_CTL`. -/
def State.withFetchWord (s : State) (nbits w : Nat) : State := s.place (tableWord nbits w)

end Sys2Proof.Machine
end

