-- ==== Sys2Proof/Machine/Adapter.lean ====
section
/-! DEFINITION. The host's ChannelAdapter (spec/43_host_adapters.md R190 to R195) and the pseudo-operations of
spec/30_encoding.md R117, as the command words they expand into. The adapter is not part of the core (spec/00_scope.md
R5): no step calls these definitions, they say what a host puts into the inbox and makes of the responses. -/

namespace Sys2Proof.Machine

/-- The samples that `DOWNMIX` pushes for an interleaved stereo block, `0.5·(L+R)` by the numerics `u` for each pair in order (R191). A block of
odd length is left open (R195) and has no expansion. -/
def downmixSamples (u : Numerics) : List Sample → Option (List Sample)
  | [] => some []
  | [_] => none
  | l :: r :: rest => (downmixSamples u rest).map (u.fmul 0x3F000000 (u.fadd l r) :: ·)

/-- `DOWNMIX MIC, block` as command words (R117, R191). -/
def downmixMic (u : Numerics) (block : List Sample) : Option (List Command) :=
  (downmixSamples u block).map fun ms => ms.map fun m => encode (.pushMic m)

/-- `DOWNMIX REF, block` as command words (R117, R191). -/
def downmixRef (u : Numerics) (block : List Sample) : Option (List Command) :=
  (downmixSamples u block).map fun ms => ms.map fun m => encode (.pushRef m)

/-- `DOWNMIX.U MIC, block`: the downmix, then one `UNPARK` (R192). -/
def downmixUnpark (u : Numerics) (block : List Sample) : Option (List Command) :=
  (downmixMic u block).map (· ++ [encode .unpark])

/-- `UPMIX k` as command words (R117, R193). -/
def upmix (k : Nat) : List Command := List.replicate k (encode .popOut)

/-- The sample the host writes for the response to a `POP OUT`: silence on `Empty` (R193). -/
def upmixSample (r : Response) : Sample := if r.st = .ok then r.d0 else silence

/-- The interleaved block that `UPMIX` fills, each sample in both slots of its pair (R193). -/
def upmixBlock (rs : List Response) : List Sample := rs.flatMap fun r => [upmixSample r, upmixSample r]

/-- How many overruns the host reports for the responses to a downmix (R191). -/
def overruns (rs : List Response) : Nat := rs.countP fun r => r.st = .full

/-- How many underruns the host reports for the responses to an upmix (R193). -/
def underruns (rs : List Response) : Nat := rs.countP fun r => r.st = .empty

end Sys2Proof.Machine
end

