-- ==== Sys2Proof/Machine/Organisation.lean ====
section
/-! DEFINITION. The two physical organisations that the spec gives as equivalent to the architectural sequences: the ring
of a FIFO (spec/40_fifo.md R139) and the circular delay line (spec/42_adaptive.md R174). The machine uses the sequences;
these are here so that the equivalence can be stated. -/

namespace Sys2Proof.Machine

/-- The ring of R139: `cap` words, a read count and a write count. -/
structure Ring where
  cap : Nat
  store : List Sample
  rd : Nat
  wr : Nat
  deriving DecidableEq, Repr

/-- The ring's own condition: `cap` words, `0 ≤ wr − rd ≤ cap` (R139), and a capacity of at least 1 (R8). -/
def Ring.ok (g : Ring) : Bool := 0 < g.cap && g.store.length = g.cap && g.rd ≤ g.wr && g.wr - g.rd ≤ g.cap

/-- The sequence a ring stands for: `Q.buf[i] = P[(rd + i) mod Q.cap]` (R139). -/
def Ring.toFifo (g : Ring) : Fifo :=
  { cap := g.cap, buf := (List.range (g.wr - g.rd)).map fun i => g.store.getD ((g.rd + i) % g.cap) silence }

/-- `PUSH` on the ring (R139). -/
def Ring.push (g : Ring) (v : Sample) : Option Ring :=
  if g.wr - g.rd = g.cap then none else some { g with store := g.store.set (g.wr % g.cap) v, wr := g.wr + 1 }

/-- `POP` on the ring (R139). -/
def Ring.pop (g : Ring) : Option (Sample × Ring) :=
  if g.wr = g.rd then none else some (g.store.getD (g.rd % g.cap) silence, { g with rd := g.rd + 1 })

/-- The circular delay line of R174: a physical array and a write pointer. -/
structure CircularLine where
  store : List Sample
  wp : Nat
  deriving DecidableEq, Repr

/-- The write pointer is inside the array (R174). -/
def CircularLine.ok (g : CircularLine) : Bool := g.wp < g.store.length

/-- The sequence it stands for: `DL[i] = P[(wp + i) mod N]` (R174). -/
def CircularLine.toLine (g : CircularLine) : List Sample :=
  (List.range g.store.length).map fun i => g.store.getD ((g.wp + i) % g.store.length) silence

/-- `DLINIT` on the circular line: `P <- zeros(N)`, `wp <- 0` (R174). -/
def CircularLine.init (n : Nat) : CircularLine := { store := zeros n, wp := 0 }

/-- `DLPUSH v` on the circular line (R174). -/
def CircularLine.push (g : CircularLine) (v : Sample) : CircularLine :=
  { store := g.store.set g.wp v, wp := (g.wp + 1) % g.store.length }

end Sys2Proof.Machine
end

