-- ==== Sys2Proof/Machine/Schedule.lean ====
section
/-! DEFINITION. Infinite runs of the machine: the schedule and the command words come from the environment without end
(spec/00_scope.md R11, spec/10_state.md R58, spec/20_memory.md R80), and weak fairness of the engine thread
(spec/45_run_control.md R236). A schedule is a term of claims and no part of the state: before each step the environment
offers one event of it, so `step` alone says what happens. -/

namespace Sys2Proof.Machine

/-- What the environment settles before one step: the words it hands to the agents of the four ports, to be issued in order,
and whose turn is next. -/
structure Event where
  words : Inbox
  turn : Turn
  deriving DecidableEq, Repr

/-- An infinite schedule (R58, R80). No law is put on it: any agent may be scheduled at any step (R11). -/
abbrev Schedule := Nat → Event

/-- Two inboxes one after the other, port by port. -/
def Inbox.append (b c : Inbox) : Inbox :=
  { mic := b.mic ++ c.mic, ref := b.ref ++ c.ref, out := b.out ++ c.out, ctl := b.ctl ++ c.ctl }

/-- The state with an event offered: its words wait behind those not yet issued, its turn comes next. -/
def State.offer (s : State) (e : Event) : State :=
  { s with inbox := s.inbox.append e.words, turns := e.turn :: s.turns }

/-- The run of a schedule from a state: what `k` events come to, stopping at the first fault or refusal. -/
def follow (events : Schedule) (s : State) : Nat → StepOutcome
  | 0 => .next s
  | k + 1 =>
    match follow events s k with
    | .next t => step (t.offer (events k))
    | .fault f => .fault f
    | .refused r => .refused r

/-- Weak fairness of `A_ENG`, the only assumption about speed (R236): at every point of the run the engine thread has a turn
later on, or a later state in which no step of it is enabled, there being no thread. -/
def WeaklyFair (events : Schedule) (s : State) : Prop :=
  ∀ k, ∃ j, k ≤ j ∧
    ((events j).turn = .agent .eng ∨ ∀ t, follow events s j = .next t → t.sched.threadRuns = false)

end Sys2Proof.Machine
end

