-- ==== Sys2Proof/Safety.lean ====
section
/-! DEFINITION. The terms in which claims are stated: a legal configuration (spec/00_scope.md R8), the invariant of the
machine, and the parts of the state that a claim speaks of as one thing. -/

namespace Sys2Proof

/-- Five finite coefficients (R8). -/
structure Coefs.Finite (c : Coefs) : Prop where
  b0 : Config.IsFinite c.b0
  b1 : Config.IsFinite c.b1
  b2 : Config.IsFinite c.b2
  a1 : Config.IsFinite c.a1
  a2 : Config.IsFinite c.a2

/-- The constraints of R8 and R9 on the parameters. -/
structure Params.Valid (c : Params) : Prop where
  taps : 1 ≤ c.n ∧ c.n ≤ 2 ^ 20
  rate : 0 < c.fs
  cutoffLp : Machine.legalCutoff c.fs c.fLp = true
  cutoffHp : Machine.legalCutoff c.fs c.fHp = true
  epsFinite : Config.IsFinite c.eps
  epsPositive : 0 < Machine.scaled c.eps
  mic : 1 ≤ c.capMic ∧ c.capMic < 2 ^ 32
  ref : 1 ≤ c.capRef ∧ c.capRef < 2 ^ 32
  out : 1 ≤ c.capOut ∧ c.capOut < 2 ^ 32
  stride : 1 ≤ c.tstride
  low : 0 < c.lowNum ∧ 2 * c.lowNum < c.lowDen
  refill : c.refill ≤ c.capOut
  coefsLp : c.cLp.Finite
  coefsHp : c.cHp.Finite

namespace Machine

/-- The invariant of the machine, each field with the rule it comes from. -/
structure Inv (s : State) : Prop where
  /-- the parameters are a configuration of this core (R8) -/
  config : s.cfg.Valid
  /-- capacities are fixed at construction (R31) -/
  caps : s.mic.cap = s.cfg.capMic ∧ s.ref.cap = s.cfg.capRef ∧ s.out.cap = s.cfg.capOut
  /-- `|DL| = |W| = N`, no FIFO above its capacity (R32, R35, R36) -/
  storage : Memory.wf s = true
  /-- with `FAULT` = 0 no weight is a NaN (R39), for every `NUM` that calls no finite sample a NaN, the default among them -/
  weights : (∀ x, Config.IsFinite x → s.num.isnan x = false) → s.fault = false → ∀ x ∈ s.w, s.num.isnan x = false
  /-- `ph` is `CHECK` while `A_CTL` holds the engine (R47) -/
  phase : s.sched.held = true → s.ph = .check
  /-- `FAULT` and `FAULTED` come and go together (R231, R252, R253) -/
  faulted : s.fault = true ↔ s.sched = .faulted
  /-- a stop request leaves the shutdown signal pending (R222) -/
  requested : s.sched = .stopRequested → s.killPending = true
  /-- a pending shutdown signal was sent by `STOP` (R49, R222, R252) -/
  pending : s.killPending = true → s.sched = .stopRequested ∨ s.sched = .faulted
  /-- `A_CTL` waits for a `STOP` exactly while it is requested (R222, R223, R231) -/
  waits : s.ctl = .waitStop ↔ s.sched = .stopRequested
  /-- a `RUNONCE` of `A_CTL` runs only while `A_CTL` holds the engine (R113, R206) -/
  direct : (∃ r, s.ctl = .runOnce r) → s.sched.held = true

/-- What moves together as "the engine" (R43). -/
structure EngineView where
  w : List Sample
  mu : Sample
  epsr : Sample
  thr : Sample
  dl : List Sample
  lp : Biquad
  hp : Biquad
  iter : Nat
  telemEn : Bool
  deriving DecidableEq, Repr

/-- The engine of a state (R43). -/
def State.engine (s : State) : EngineView :=
  { w := s.w, mu := s.mu, epsr := s.epsr, thr := s.thr, dl := s.dl, lp := s.lp, hp := s.hp, iter := s.iter
    telemEn := s.telemEn }

/-- The five run-control registers (R46 to R50). -/
structure ControlView where
  sched : Sched
  ph : Phase
  worked : Bool
  killPending : Bool
  token : Bool
  deriving DecidableEq, Repr

/-- The run control of a state (R46 to R50). -/
def State.control (s : State) : ControlView :=
  { sched := s.sched, ph := s.ph, worked := s.worked, killPending := s.killPending, token := s.token }

/-- `r` is the exact value `p / q`, in units of 2^-149, rounded to binary32, to nearest with ties to even (R13): no NaN; the
infinity of its sign exactly from half a quantum above the largest finite sample on; else at least as near to `p / q` as any
finite sample, the last bit 0 if another value is as near. `q` is positive. -/
structure RoundsTo (p : Int) (q : Nat) (r : Sample) : Prop where
  number : isNaN r = false
  overflow : isInf r = true ↔ (2 ^ 25 - 1) * 2 ^ 252 * q ≤ p.natAbs
  sign : p ≠ 0 → signBit r = decide (p < 0)
  nearest : isInf r = false → ∀ x, Config.IsFinite x → (p - q * scaled r).natAbs ≤ (p - q * scaled x).natAbs
  even : isInf r = false → ∀ x, Config.IsFinite x → (p - q * scaled r).natAbs = (p - q * scaled x).natAbs →
    scaled x ≠ scaled r → r.toNat % 2 = 0

/-- A safe run has raised no fault (R51). -/
abbrev State.Safe (s : State) : Prop := s.fault = false

/-- The transitions of `SCHED` that R220 lists, and staying. -/
def Sched.mayBecome : Sched → Sched → Bool
  | .idle, t => t = .idle || t = .running || t = .faulted
  | .running, t => t = .running || t = .stopRequested || t = .faulted
  | .stopRequested, t => t = .stopRequested || t = .stopped || t = .faulted
  | .stopped, t => t = .stopped || t = .running || t = .faulted
  | .faulted, t => t = .faulted

/-- `A_CTL` issues the command and holds the engine: direct access (R113, R234). -/
structure State.DirectAccess (s : State) : Prop where
  port : s.curPort = .ctl
  held : s.sched.held = true

/-- The FIFO `q` may be queried by the issuer: its callback, or `A_CTL` while it holds the engine (R113, R130). -/
def State.MayQuery (s : State) (q : FifoId) : Prop := s.curPort = hostPort q ∨ s.DirectAccess

/-- The state with one turn put at the head of its schedule. -/
def State.onTurn (s : State) (t : Turn) : State := { s with turns := t :: s.turns }

/-- Pushes samples in order, none if one push fails (R137). -/
def Fifo.pushAll (q : Fifo) : List Sample → Option Fifo
  | [] => some q
  | v :: vs => (q.push v).bind fun q' => q'.pushAll vs

/-- Pops `k` times and lists the samples in the order they came, none if one pop fails (R137). -/
def Fifo.popAll (q : Fifo) : Nat → Option (List Sample × Fifo)
  | 0 => some ([], q)
  | k + 1 => q.pop.bind fun r => (r.2.popAll k).map fun x => (r.1 :: x.1, x.2)

/-- One row of spec/opcode_table.json: its mask and its match, over the 64 bits of a command word. -/
structure OpcodeRow where
  mask : Command
  value : Command
  deriving DecidableEq, Repr

/-- A word falls under a row. -/
def OpcodeRow.covers (r : OpcodeRow) (w : Command) : Bool := w &&& r.mask = r.value

/-- The 36 rows of spec/opcode_table.json, in its order. -/
def opcodeRows : List OpcodeRow :=
  [{ mask := 0xFFFFFFFF00000000, value := 0x1000000000000000 },
    { mask := 0xFFFFFFFF00000000, value := 0x1010000000000000 },
    { mask := 0xFFFFFFFF00000000, value := 0x1020000000000000 },
    { mask := 0xFFFFFFFFFFFFFFFF, value := 0x1100000000000000 },
    { mask := 0xFFFFFFFFFFFFFFFF, value := 0x1110000000000000 },
    { mask := 0xFFFFFFFFFFFFFFFF, value := 0x1120000000000000 },
    { mask := 0xFFFFFFFFFFFFFFFF, value := 0x1200000000000000 },
    { mask := 0xFFFFFFFFFFFFFFFF, value := 0x1210000000000000 },
    { mask := 0xFFFFFFFFFFFFFFFF, value := 0x1220000000000000 }]
  ++ [{ mask := 0xFFFFFFFFFFFFFFFF, value := 0x1300000000000000 },
    { mask := 0xFFFFFFFFFFFFFFFF, value := 0x1310000000000000 },
    { mask := 0xFFFFFFFFFFFFFFFF, value := 0x1320000000000000 },
    { mask := 0xFFFFFFFFFFFFFFFF, value := 0x1400000000000000 },
    { mask := 0xFFFFFFFFFFFFFFFF, value := 0x1410000000000000 },
    { mask := 0xFFFFFFFFFFFFFFFF, value := 0x1420000000000000 },
    { mask := 0xFFFFFFFFFFFFFFFF, value := 0x1500000000000000 },
    { mask := 0xFFFFFFFFFFFFFFFF, value := 0x1510000000000000 },
    { mask := 0xFFFFFFFFFFFFFFFF, value := 0x1520000000000000 }]
  ++ [{ mask := 0xFFFFFFF800000000, value := 0x2030000000000000 },
    { mask := 0xFFFFFFF800000000, value := 0x2040000000000000 },
    { mask := 0xFFFFFFFF00000000, value := 0x2130000000000000 },
    { mask := 0xFFFFFFFF00000000, value := 0x2140000000000000 },
    { mask := 0xFFFFFFFF00000000, value := 0x2270000000000000 },
    { mask := 0xFFFFFFFF00000000, value := 0x3050000000000000 },
    { mask := 0xFFF00000FFFFFFFF, value := 0x3150000000000000 },
    { mask := 0xFFFFFFFFFFFFFFFF, value := 0x3250000000000000 },
    { mask := 0xFFFFFFFF00000000, value := 0x4060000000000000 }]
  ++ [{ mask := 0xFFF00000FFFFFFFF, value := 0x4160000000000000 },
    { mask := 0xFFFFFFFF00000000, value := 0x5070000000000000 },
    { mask := 0xFFFFFFFFFFFFFFFF, value := 0x5170000000000000 },
    { mask := 0xFFFFFFFFFFFFFFFF, value := 0x5270000000000000 },
    { mask := 0xFFFFFFFFFFFFFFFF, value := 0x6080000000000000 },
    { mask := 0xFFFFFFFFFFFFFFFF, value := 0x6180000000000000 },
    { mask := 0xFFFFFFFFFFFFFFFF, value := 0x6280000000000000 },
    { mask := 0xFFF00000FFFFFFFF, value := 0x7090000000000000 },
    { mask := 0xFFF0000000000000, value := 0x7190000000000000 }]

/-- A `BQINIT` word with a reserved mode code; it falls under a row and is illegal all the same (R110, R111). -/
def reservedMode (w : Command) : Bool := opField w = 0x20 && 5 ≤ (auxField w).toNat % 8

/-- The table of R113, written out: what each port may issue. -/
def portTable (p : Port) (i : Instr) : Access :=
  match p, i with
  | .mic, .pushMic _ | .mic, .lenMic | .mic, .capMic | .mic, .isemptyMic | .mic, .isfullMic | .mic, .unpark => .always
  | .ref, .pushRef _ | .ref, .lenRef | .ref, .capRef | .ref, .isemptyRef | .ref, .isfullRef => .always
  | .out, .popOut | .out, .lenOut | .out, .capOut | .out, .isemptyOut | .out, .isfullOut => .always
  | .ctl, .start | .ctl, .stop | .ctl, .csrr _ => .always
  | .ctl, .popMic | .ctl, .popRef | .ctl, .pushOut _ => .held
  | .ctl, .lenMic | .ctl, .capMic | .ctl, .isemptyMic | .ctl, .isfullMic => .held
  | .ctl, .lenRef | .ctl, .capRef | .ctl, .isemptyRef | .ctl, .isfullRef => .held
  | .ctl, .lenOut | .ctl, .capOut | .ctl, .isemptyOut | .ctl, .isfullOut => .held
  | .ctl, .bqinitLp _ _ | .ctl, .bqinitHp _ _ | .ctl, .bqtickLp _ | .ctl, .bqtickHp _ | .ctl, .casc _ => .held
  | .ctl, .dlpush _ | .ctl, .dlrd _ | .ctl, .dlinit | .ctl, .adapt _ | .ctl, .wrd _ | .ctl, .enginit _ => .held
  | .ctl, .iter | .ctl, .runonce | .ctl, .csrw _ _ => .held
  | _, _ => .never

end Machine
end Sys2Proof
end

