-- ==== Sys2Proof/Certificates/Slice0/Obligations.lean ====
section
/-! DEFINITION. The statements for the provers, one `def Obligations.<Name> : Prop` each; the rules and the sentence a
statement formalises are in OBLIGATIONS.json. A response is stated with `State.reply` and `State.answer`, which append
one response word to `responses` and change nothing else. `s.num` is the configuration field `NUM` (R13): a statement in terms of
it holds for every numerics record, and one about the default names `binary32`. -/

open Sys2Proof Sys2Proof.Machine

/-! ### Encoding -/

/-- Decoding the word of a well-formed operation gives the operation (R101, R105). -/
def Obligations.DecodeEncodeRoundTrip : Prop :=
  ∀ i : Instr, i.WellFormed → decode (encode i) = .ok i

/-- A legal word is the encoding of the one operation it decodes to, and that operation is well formed (R111). -/
def Obligations.LegalWordIsTheEncodingOfItsOperation : Prop :=
  ∀ (w : Command) (i : Instr), decode w = .ok i → encode i = w ∧ i.WellFormed

/-- A word is legal exactly when it falls under a row of spec/opcode_table.json and is no `BQINIT` with mode code 5, 6 or 7
(R111, R112). -/
def Obligations.LegalExactlyUnderATableRow : Prop :=
  ∀ w : Command, (∃ i, decode w = .ok i) ↔ (opcodeRows.any (·.covers w) = true ∧ reservedMode w = false)

/-- The worked encodings of R118 decode to the operations they stand for. -/
def Obligations.WorkedWordsDecode : Prop :=
  decode 0x100000003F800000 = .ok (.pushMic 0x3F800000) ∧
  decode 0x1120000000000000 = .ok .popOut ∧
  decode 0x2040000143960000 = .ok (.bqinitHp .highPass 0x43960000) ∧
  decode 0x315007FF00000000 = .ok (.dlrd 2047) ∧
  decode 0x719000047F7FFFFF = .ok (.csrw 4 0x7F7FFFFF) ∧
  ({ port := .out, st := .ok, d1 := 0, d0 := 0x3E800000 } : Response).toWord = 0x00000000003E800000

/-! ### Steps, ports and turns -/

/-- When the next word at the port of the agent whose turn it is decodes to `i`, the step is `exec i` on the state with the word
taken from the port and the port noted; `A_CTL` issues a word only when none of its transactions is open. Turns and waiting
words are the model's own (log entries 11, 13). -/
def Obligations.StepRunsTheDecodedInstruction : Prop :=
  ∀ (s : State) (p : Port) (w : Command) (ws : List Command) (i : Instr),
    decode w = .ok i → s.inbox.at p = w :: ws → (p = .ctl → s.ctl = .ready) →
    step (s.onTurn (.agent p.agent)) = exec i { s with inbox := s.inbox.put p ws, curPort := p }

/-- An illegal word is answered `IllegalOp` with both results zero, and nothing else changes (R111). Turns and waiting words are
the model's own (log entries 11, 13). -/
def Obligations.IllegalWordAnswersIllegalOp : Prop :=
  ∀ (s : State) (p : Port) (w : Command) (ws : List Command) (e : Illegal),
    decode w = .error e → s.inbox.at p = w :: ws → (p = .ctl → s.ctl = .ready) →
    step (s.onTurn (.agent p.agent)) =
      .next ({ s with inbox := s.inbox.put p ws, curPort := p }.answer p .illegalOp 0 0)

/-- `withFetchWord` makes the next step run the instruction of the word, on a port that may issue it. The model's own choice
(log entry 12). -/
def Obligations.PlacedWordIsRunNext : Prop :=
  ∀ (s : State) (w : Nat) (i : Instr), decodeTableWord 64 w = some i →
    ∃ s', step (s.withFetchWord 64 w) = exec i s' ∧ s'.curPort = homePort i ∧
      { s' with curPort := s.curPort, ctl := s.ctl } = s

/-- A legal command on a port that may never issue it is answered `NotOwner`, and nothing else changes (R113). -/
def Obligations.CommandOnAForeignPortAnswersNotOwner : Prop :=
  ∀ (i : Instr) (s : State), portTable s.curPort i = .never → exec i s = .next (s.reply .notOwner 0 0)

/-- A command of R113's right column is answered `Busy` while the engine runs and `Faulted` after a fault, and nothing else
changes (R113). -/
def Obligations.EngineCommandNotHeldAnswersBusyOrFaulted : Prop :=
  ∀ (i : Instr) (s : State), portTable s.curPort i = .held →
    (s.sched = .running ∨ s.sched = .stopRequested → exec i s = .next (s.reply .busy 0 0)) ∧
    (s.sched = .faulted → exec i s = .next (s.reply .faulted 0 0))

/-! ### FIFO -/

/-- `PUSH` appends the sample, or answers `Full` and changes nothing (R131). -/
def Obligations.PushAppendsOrAnswersFull : Prop :=
  ∀ (v : Sample) (s : State),
    (s.curPort = .mic → exec (.pushMic v) s =
      .next (if s.mic.buf.length = s.mic.cap then s.reply .full 0 0
        else { s with mic := { s.mic with buf := s.mic.buf ++ [v] } }.reply .ok 0 0)) ∧
    (s.curPort = .ref → exec (.pushRef v) s =
      .next (if s.ref.buf.length = s.ref.cap then s.reply .full 0 0
        else { s with ref := { s.ref with buf := s.ref.buf ++ [v] } }.reply .ok 0 0)) ∧
    (s.DirectAccess → exec (.pushOut v) s =
      .next (if s.out.buf.length = s.out.cap then s.reply .full 0 0
        else { s with out := { s.out with buf := s.out.buf ++ [v] } }.reply .ok 0 0))

/-- `POP` removes and answers the oldest sample, or answers `Empty` and changes nothing (R132). -/
def Obligations.PopRemovesTheOldestOrAnswersEmpty : Prop :=
  ∀ (v : Sample) (rest : List Sample) (s : State),
    (s.DirectAccess → s.mic.buf = v :: rest →
      exec .popMic s = .next ({ s with mic := { s.mic with buf := rest } }.reply .ok 0 v)) ∧
    (s.DirectAccess → s.mic.buf = [] → exec .popMic s = .next (s.reply .empty 0 0)) ∧
    (s.DirectAccess → s.ref.buf = v :: rest →
      exec .popRef s = .next ({ s with ref := { s.ref with buf := rest } }.reply .ok 0 v)) ∧
    (s.DirectAccess → s.ref.buf = [] → exec .popRef s = .next (s.reply .empty 0 0)) ∧
    (s.curPort = .out → s.out.buf = v :: rest →
      exec .popOut s = .next ({ s with out := { s.out with buf := rest } }.reply .ok 0 v)) ∧
    (s.curPort = .out → s.out.buf = [] → exec .popOut s = .next (s.reply .empty 0 0))

/-- `LEN`, `CAP`, `ISEMPTY` and `ISFULL` answer the length, the capacity and the two derived flags of their FIFO, to either half
of it, and change nothing (R52, R130, R133 to R136). That a number of 2^32 or more, in no configuration of the core, is given
modulo 2^32 is the model's own (log entry 22). -/
def Obligations.QueriesAnswerLengthCapacityAndFlags : Prop :=
  ∀ s : State,
    (s.MayQuery .mic →
      exec .lenMic s = .next (s.reply .ok 0 (BitVec.ofNat 32 s.mic.buf.length)) ∧
      exec .capMic s = .next (s.reply .ok 0 (BitVec.ofNat 32 s.mic.cap)) ∧
      exec .isemptyMic s = .next (s.reply .ok 0 (if s.mic.buf.length = 0 then 1 else 0)) ∧
      exec .isfullMic s = .next (s.reply .ok 0 (if s.mic.buf.length = s.mic.cap then 1 else 0))) ∧
    (s.MayQuery .ref →
      exec .lenRef s = .next (s.reply .ok 0 (BitVec.ofNat 32 s.ref.buf.length)) ∧
      exec .capRef s = .next (s.reply .ok 0 (BitVec.ofNat 32 s.ref.cap)) ∧
      exec .isemptyRef s = .next (s.reply .ok 0 (if s.ref.buf.length = 0 then 1 else 0)) ∧
      exec .isfullRef s = .next (s.reply .ok 0 (if s.ref.buf.length = s.ref.cap then 1 else 0))) ∧
    (s.MayQuery .out →
      exec .lenOut s = .next (s.reply .ok 0 (BitVec.ofNat 32 s.out.buf.length)) ∧
      exec .capOut s = .next (s.reply .ok 0 (BitVec.ofNat 32 s.out.cap)) ∧
      exec .isemptyOut s = .next (s.reply .ok 0 (if s.out.buf.length = 0 then 1 else 0)) ∧
      exec .isfullOut s = .next (s.reply .ok 0 (if s.out.buf.length = s.out.cap then 1 else 0)))

/-- Pushing `k ≤ capacity` samples into an empty FIFO and popping `k` times gives the samples in order and the FIFO as it was;
on a full FIFO a further push fails (R137). -/
def Obligations.FifoRoundTrip : Prop :=
  ∀ (q : Fifo) (vs : List Sample), q.buf = [] → vs.length ≤ q.cap →
    ∃ q', q.pushAll vs = some q' ∧ q'.popAll vs.length = some (vs, q) ∧
      (vs.length = q.cap → ∀ v, q'.push v = none)

/-- The ring of R139 is equivalent to the sequence: its push and its pop succeed together with those of the sequence, give the
same sample, and keep the ring's condition. -/
def Obligations.RingImplementsTheFifo : Prop :=
  ∀ (g : Ring) (v : Sample), g.ok = true →
    g.toFifo.push v = (g.push v).map Ring.toFifo ∧
    g.toFifo.pop = g.pop.map (fun r => (r.1, r.2.toFifo)) ∧
    (∀ g', g.push v = some g' → g'.ok = true) ∧
    (∀ r, g.pop = some r → r.2.ok = true)

/-! ### Biquads -/

/-- `BQINIT`: a shelf or peak mode is answered `BadMode` whatever the cutoff; in the two modes of the core a cutoff in the open
interval (0, `FS`/2), exactly compared in units of 2^-149, loads the coefficients of `coef` and a history of `+0.0`; a NaN, an
infinity and any other value is answered `BadParam` and changes nothing (R151, R154, R158). -/
def Obligations.BqinitConstructsTheBiquad : Prop :=
  ∀ (m : Mode) (x : Sample) (s : State), s.DirectAccess →
    let legal := s.num.isnan x = false ∧ isNaN x = false ∧ isInf x = false ∧ 0 < scaled x ∧ 2 * scaled x < s.cfg.fs * 2 ^ 149
    (m = .lowShelf ∨ m = .highShelf ∨ m = .peak →
      exec (.bqinitLp m x) s = .next (s.reply .badMode 0 0) ∧ exec (.bqinitHp m x) s = .next (s.reply .badMode 0 0)) ∧
    (∀ c, coef s.cfg m x = some c →
      exec (.bqinitLp m x) s =
        .next (if legal then { s with lp := { c := c, x1 := 0, x2 := 0, y1 := 0, y2 := 0 } }.reply .ok 0 0
          else s.reply .badParam 0 0) ∧
      exec (.bqinitHp m x) s =
        .next (if legal then { s with hp := { c := c, x1 := 0, x2 := 0, y1 := 0, y2 := 0 } }.reply .ok 0 0
          else s.reply .badParam 0 0)) ∧
    (m = .lowPass ∨ m = .highPass → ∃ c, coef s.cfg m x = some c)

/-- With the default parameters `coef` gives the ten reference values at the default cutoffs (R155). -/
def Obligations.ReferenceCoefficients : Prop :=
  coef Config.params .lowPass 0x45548000 =
    some { b0 := 0x3D18F229, b1 := 0x3D98F229, b2 := 0x3D18F229, a1 := 0xBFB12352, a2 := 0x3F08832E } ∧
  coef Config.params .highPass 0x43960000 =
    some { b0 := 0x3F78FD39, b1 := 0xBFF8FD39, b2 := 0x3F78FD39, a1 := 0xBFF8E4A5, a2 := 0x3F722B9C }

/-- `BQTICK` answers the value of the recurrence and shifts the history (R156). -/
def Obligations.BqtickComputesTheRecurrence : Prop :=
  ∀ (x : Sample) (s : State), s.DirectAccess →
    let out := fun f : Biquad =>
      s.num.fsub
        (s.num.fsub (s.num.fadd (s.num.fadd (s.num.fmul f.c.b0 x) (s.num.fmul f.c.b1 f.x1)) (s.num.fmul f.c.b2 f.x2))
          (s.num.fmul f.c.a1 f.y1))
        (s.num.fmul f.c.a2 f.y2)
    exec (.bqtickLp x) s =
      .next ({ s with lp := { c := s.lp.c, x1 := x, x2 := s.lp.x1, y1 := out s.lp, y2 := s.lp.y1 } }.reply .ok 0
        (out s.lp)) ∧
    exec (.bqtickHp x) s =
      .next ({ s with hp := { c := s.hp.c, x1 := x, x2 := s.hp.x1, y1 := out s.hp, y2 := s.hp.y1 } }.reply .ok 0
        (out s.hp))

/-- `CASC x` has the effect and the result of `BQTICK LP, x` followed by `BQTICK HP` on its result, given as one response (R117,
R157). -/
def Obligations.CascIsTickLpThenTickHp : Prop :=
  ∀ (x : Sample) (s : State), s.DirectAccess →
    ∃ (a f : Sample) (s1 s2 : State),
      exec (.bqtickLp x) s = .next (s1.reply .ok 0 a) ∧ s1.responses = s.responses ∧
      exec (.bqtickHp a) s1 = .next (s2.reply .ok 0 f) ∧ s2.responses = s.responses ∧
      exec (.casc x) s = .next (s2.reply .ok 0 f)

/-- No operation but `BQINIT` and `ENGINIT`, no step of the engine thread and no step of a `RUNONCE` writes a coefficient (R42).
-/
def Obligations.CoefficientsChangeOnlyAtConstruction : Prop :=
  ∀ s t : State,
    (∀ i : Instr, (∀ m x, i ≠ .bqinitLp m x ∧ i ≠ .bqinitHp m x) → (∀ mu, i ≠ .enginit mu) → exec i s = .next t →
      t.lp.c = s.lp.c ∧ t.hp.c = s.hp.c) ∧
    (engineStep s = .next t → t.lp.c = s.lp.c ∧ t.hp.c = s.hp.c) ∧
    (∀ r, runOnceStep r s = .next t → t.lp.c = s.lp.c ∧ t.hp.c = s.hp.c)

/-! ### Delay line and adaptive filter -/

/-- `DLINIT` zeros the delay line; `DLPUSH` drops the oldest element and makes its operand the newest (R171, R172). -/
def Obligations.DelayLineInitAndPush : Prop :=
  ∀ (v : Sample) (s : State), s.DirectAccess →
    exec .dlinit s = .next ({ s with dl := List.replicate s.cfg.n 0 }.reply .ok 0 0) ∧
    exec (.dlpush v) s = .next ({ s with dl := s.dl.tail ++ [v] }.reply .ok 0 0)

/-- `DLRD i` and `WRD i` answer element `i`, or `BadIndex` when `i ≥ N`, and change nothing (R173, R181). -/
def Obligations.StorageReadsAnswerTheElementOrBadIndex : Prop :=
  ∀ (i : Nat) (s : State), s.DirectAccess →
    (s.cfg.n ≤ i → exec (.dlrd i) s = .next (s.reply .badIndex 0 0) ∧ exec (.wrd i) s = .next (s.reply .badIndex 0 0)) ∧
    (i < s.cfg.n → ∀ v, s.dl[i]? = some v → exec (.dlrd i) s = .next (s.reply .ok 0 v)) ∧
    (i < s.cfg.n → ∀ v, s.w[i]? = some v → exec (.wrd i) s = .next (s.reply .ok 0 v))

/-- The circular delay line of R174 is equivalent to the sequence: its `DLINIT` stands for the line of zeros, its `DLPUSH` for
the push on the sequence, and both keep its condition. -/
def Obligations.CircularLineImplementsTheDelayLine : Prop :=
  (∀ n, 1 ≤ n → (CircularLine.init n).toLine = List.replicate n 0 ∧ (CircularLine.init n).ok = true ∧
    (CircularLine.init n).store.length = n) ∧
  ∀ (g : CircularLine) (v : Sample), g.ok = true →
    (g.push v).toLine = shiftIn g.toLine v ∧ (g.push v).ok = true ∧ (g.push v).store.length = g.store.length

/-- `ADAPT target` where no compared product is a NaN: output, novelty and gate as R175 prints them; the gate closed leaves
every weight, the gate open adds every delta (R175, R176, R177). -/
def Obligations.AdaptUpdatesTheWeightsThroughTheGate : Prop :=
  ∀ (target : Sample) (s : State), s.DirectAccess → s.dl.length = s.w.length →
    let output := s.num.sum (List.zipWith s.num.fmul s.w s.dl)
    let error := s.num.fsub target output
    let energy := s.num.sum (s.dl.map fun x => s.num.fmul x x)
    let se := s.num.fmul (s.num.fdiv s.mu (s.num.fadd s.epsr energy)) error
    let dw := s.dl.map fun x => s.num.fmul se x
    let t := dw.map fun d => s.num.fabs (s.num.fmul d error)
    let novelty := s.num.max t
    let updated := List.zipWith s.num.fadd s.w dw
    (∀ x ∈ t, s.num.isnan x = false) →
      (s.num.flt novelty s.thr = false → exec (.adapt target) s = .next (s.reply .ok novelty output)) ∧
      (s.num.flt novelty s.thr = true → (∀ x ∈ updated, s.num.isnan x = false) →
        exec (.adapt target) s = .next ({ s with w := updated }.reply .ok novelty output))

/-- `ADAPT target` where some compared product is a NaN: either the update is skipped and the weights stay, or it is applied and
the check of R178 decides between a normal return and the fault, whose entry sets `FAULT`, `SCHED` and the event and keeps the
corrupt weights; the novelty returned is not fixed (R178, R179, R252). The draws are numbered by the model's own counter (log
entries 3, 4). -/
def Obligations.AdaptWithANaNProductSkipsAppliesOrFaults : Prop :=
  ∀ (target : Sample) (s : State), s.DirectAccess → s.dl.length = s.w.length →
    let output := s.num.sum (List.zipWith s.num.fmul s.w s.dl)
    let error := s.num.fsub target output
    let energy := s.num.sum (s.dl.map fun x => s.num.fmul x x)
    let se := s.num.fmul (s.num.fdiv s.mu (s.num.fadd s.epsr energy)) error
    let dw := s.dl.map fun x => s.num.fmul se x
    let updated := List.zipWith s.num.fadd s.w dw
    (∃ d ∈ dw, s.num.isnan (s.num.fabs (s.num.fmul d error)) = true) →
      (∃ novelty, exec (.adapt target) s = .next ({ s with draws := s.draws + 1 }.reply .ok novelty output)) ∨
      ((∀ x ∈ updated, s.num.isnan x = false) ∧
        ∃ novelty, exec (.adapt target) s = .next ({ s with w := updated, draws := s.draws + 1 }.reply .ok novelty output)) ∨
      ((∃ x ∈ updated, s.num.isnan x = true) ∧
        exec (.adapt target) s =
          .next (State.reply { s with
            w := updated, draws := s.draws + 1, fault := true, sched := .faulted
            diag := s.diag ++ [DiagEvent.nanWeight] } .nanWeight 0 0))

/-- Novelty gating: output and novelty of `ADAPT` do not depend on `THR`; with the threshold at or below the novelty the weights
stay, with it above they are the sums (R183). -/
def Obligations.ThresholdDecidesTheWeightsAlone : Prop :=
  ∀ (target low high : Sample) (s : State), s.DirectAccess → s.dl.length = s.w.length →
    let a := adaptTerms s.num s.mu s.epsr s.w s.dl target
    (∀ x ∈ a.t, s.num.isnan x = false) → s.num.flt (s.num.max a.t) low = false → s.num.flt (s.num.max a.t) high = true →
    (∀ x ∈ List.zipWith s.num.fadd s.w a.dw, s.num.isnan x = false) →
    ∃ t u : State, exec (.adapt target) { s with thr := low } = .next t ∧ exec (.adapt target) { s with thr := high } = .next u ∧
      t.responses = u.responses ∧ t.w = s.w ∧ u.w = List.zipWith s.num.fadd s.w a.dw

/-- Silence leaves the weights numerically unchanged: under the default `NUM`, with an all-zero window, finite weights, target
and step, and `EPSR` positive, `ADAPT` answers output and novelty `+0.0`, raises nothing, and every weight keeps its value
(R182). -/
def Obligations.SilentWindowKeepsTheWeightsNumerically : Prop :=
  ∀ (target : Sample) (s : State), s.DirectAccess → s.cfg.num = .binary32 →
    s.dl = List.replicate s.w.length 0 → s.w ≠ [] →
    (∀ x ∈ s.w, Config.IsFinite x) → Config.IsFinite target → Config.IsFinite s.mu → Config.IsFinite s.epsr →
    0 < scaled s.epsr → Config.IsFinite (binary32.fmul (binary32.fdiv s.mu s.epsr) target) →
    ∃ w', exec (.adapt target) s = .next ({ s with w := w' }.reply .ok 0 0) ∧ w'.map scaled = s.w.map scaled

/-- No operation but `ADAPT`, `ITER`, `RUNONCE` and `ENGINIT` writes a weight (R36). -/
def Obligations.WeightsChangeOnlyByAdaptAndConstruction : Prop :=
  ∀ (i : Instr) (s t : State), (∀ x, i ≠ .adapt x) → i ≠ .iter → i ≠ .runonce → (∀ mu, i ≠ .enginit mu) →
    exec i s = .next t → t.w = s.w

/-! ### Engine -/

/-- `ENGINIT mu` constructs the engine: `N` finite weights, otherwise free, every other register as R201 lists it; the FIFOs,
the scheduler and the sticky flags stay (R201). The draw is numbered by the model's own counter (log entry 3). -/
def Obligations.EnginitConstructsTheEngine : Prop :=
  ∀ (mu : Sample) (s : State), s.DirectAccess →
    ∃ w0 : List Sample, w0.length = s.cfg.n ∧ (∀ x ∈ w0, Config.IsFinite x) ∧
      exec (.enginit mu) s =
        .next ({ s with
          w := w0, mu := mu, epsr := s.cfg.eps, thr := s.cfg.thr0, dl := List.replicate s.cfg.n 0
          lp := { c := s.cfg.cLp, x1 := 0, x2 := 0, y1 := 0, y2 := 0 }
          hp := { c := s.cfg.cHp, x1 := 0, x2 := 0, y1 := 0, y2 := 0 }
          iter := 0, telemEn := false, draws := s.draws + 1 }.reply .ok 0 0)

/-- `ITER` with the loop condition false answers `NoWork` and changes nothing (R203, R245). -/
def Obligations.IterWithoutWorkAnswersNoWork : Prop :=
  ∀ s : State, s.DirectAccess → s.mic.buf = [] ∨ s.ref.buf = [] ∨ s.out.cap ≤ s.out.buf.length →
    exec .iter s = .next (s.reply .noWork 0 0)

/-- `ITER` with work, no NaN weight and no telemetry due: one sample popped from each input, the delay line shifted, `adapt` on
the new window, the residual through `LP` and `HP`, the result pushed into `OUT`, `ITER` counted (R203). -/
def Obligations.IterRunsOneIteration : Prop :=
  ∀ (m r : Sample) (ms rs : List Sample) (s : State), s.DirectAccess →
    s.mic.buf = m :: ms → s.ref.buf = r :: rs → s.out.buf.length < s.out.cap → (s.dl.tail ++ [r]).length = s.w.length →
    let a := adapt s.num s.mu s.epsr s.thr s.w (s.dl.tail ++ [r]) m s.draws
    let lp := tick s.num s.lp (s.num.fsub m a.output)
    let hp := tick s.num s.hp lp.1
    a.nan = false → s.telemEn = false ∨ (s.iter + 1) % s.cfg.tstride ≠ 0 →
    exec .iter s =
      .next ({ s with
        mic := { s.mic with buf := ms }, ref := { s.ref with buf := rs }, dl := s.dl.tail ++ [r]
        w := a.w, draws := a.draws, lp := lp.2, hp := hp.2
        out := { s.out with buf := s.out.buf ++ [hp.1] }, iter := s.iter + 1 }.reply .ok a.novelty hp.1)

/-- The iteration that makes `ITER` a multiple of `TSTRIDE` with telemetry enabled appends one telemetry word, with a free time
stamp and the three fill ratios at the end of the iteration, and otherwise does what any iteration does (R203, R210, R212). The
draw is numbered by the model's own counter (log entries 3, 6). -/
def Obligations.TelemetryWordOnTheStride : Prop :=
  ∀ (m r : Sample) (ms rs : List Sample) (s : State), s.DirectAccess →
    s.mic.buf = m :: ms → s.ref.buf = r :: rs → s.out.buf.length < s.out.cap → (s.dl.tail ++ [r]).length = s.w.length →
    let a := adapt s.num s.mu s.epsr s.thr s.w (s.dl.tail ++ [r]) m s.draws
    let lp := tick s.num s.lp (s.num.fsub m a.output)
    let hp := tick s.num s.hp lp.1
    a.nan = false → s.telemEn = true → (s.iter + 1) % s.cfg.tstride = 0 →
    ∃ elapsed : Sample, exec .iter s =
      .next ({ s with
        mic := { s.mic with buf := ms }, ref := { s.ref with buf := rs }, dl := s.dl.tail ++ [r]
        w := a.w, draws := a.draws + 1, lp := lp.2, hp := hp.2
        out := { s.out with buf := s.out.buf ++ [hp.1] }, iter := s.iter + 1
        telemetry := s.telemetry ++
          [({ elapsed := elapsed
              micFill := s.num.fdiv (s.num.u2f ms.length) (s.num.u2f s.mic.cap)
              refFill := s.num.fdiv (s.num.u2f rs.length) (s.num.u2f s.ref.cap)
              outFill := s.num.fdiv (s.num.u2f (s.out.buf.length + 1)) (s.num.u2f s.out.cap) } : TelemetryWord)] }.reply .ok a.novelty hp.1)

/-- An iteration in which `adapt` raises `NaNWeight` stops there: the samples are popped, the delay line is shifted, the weights
keep the corrupt update, the fault is entered, and nothing after step 3 happens; otherwise the next state is not faulted by it
(R213, R231, R252). -/
def Obligations.IterFaultStopsAfterStepThree : Prop :=
  ∀ (m r : Sample) (ms rs : List Sample) (s : State), s.DirectAccess →
    s.mic.buf = m :: ms → s.ref.buf = r :: rs → s.out.buf.length < s.out.cap → (s.dl.tail ++ [r]).length = s.w.length →
    let a := adapt s.num s.mu s.epsr s.thr s.w (s.dl.tail ++ [r]) m s.draws
    ∃ t, exec .iter s = .next t ∧
      (if a.nan then
        t = State.reply { s with
          mic := { s.mic with buf := ms }, ref := { s.ref with buf := rs }, dl := s.dl.tail ++ [r]
          w := a.w, draws := a.draws, fault := true, sched := .faulted
          diag := s.diag ++ [DiagEvent.nanWeight] } .nanWeight 0 0
      else t.fault = s.fault ∧ t.sched = s.sched ∧ t.diag = s.diag)

/-- `RUNONCE` runs to its response, `A_CTL` alone stepping: it runs one iteration for each pair of samples waiting as far as
`OUT` has room, each filtered sample pushed, tests the low-water mark, reports `Starved` and pushes silence up to `REFILL`
exactly when `OUT` is low, and answers its two counts; or one of these iterations raises `NaNWeight`, which is then reported and
its answer (R206, R207, R208). How the steps of `RUNONCE` are taken is the model's own (log entries 11, 17), and so is a count
of 2^32 or more given modulo 2^32 (log entry 22). -/
def Obligations.RunonceDrainsRefillsAndAnswersItsCounts : Prop :=
  ∀ (n : Nat) (s : State), Inv s → s.turns = [] → s.ctl = .runOnce { phase := .drain, n := n, z := 0 } →
    let work := min (min s.mic.buf.length s.ref.buf.length) (s.out.cap - s.out.buf.length)
    let level := s.out.buf.length + work
    let low : Bool := s.cfg.lowDen * level < s.cfg.lowNum * s.out.cap
    let z := if low then s.cfg.refill - level else 0
    ∃ k ≤ work + s.cfg.refill + 3, ∃ t, core.run k s = .next t ∧ t.ctl = .ready ∧
      ((0 < work ∧ t.sched = .faulted ∧ t.fault = true ∧ t.starved = s.starved ∧
          t.diag = s.diag ++ [.nanWeight] ∧
          t.responses = s.responses ++ [{ port := .ctl, st := .nanWeight, d1 := 0, d0 := 0 }]) ∨
        (t.sched = s.sched ∧ t.fault = s.fault ∧ t.starved = (s.starved || low) ∧
          t.diag = s.diag ++ (if low then [.starved] else []) ∧
          t.responses = s.responses ++
            [{ port := .ctl, st := .ok, d1 := BitVec.ofNat 32 z, d0 := BitVec.ofNat 32 (n + work) }] ∧
          t.mic = { s.mic with buf := s.mic.buf.drop work } ∧ t.ref = { s.ref with buf := s.ref.buf.drop work } ∧
          t.iter = s.iter + work ∧ (work = 0 → t.engine = s.engine) ∧
          ∃ filtered : List Sample, filtered.length = work ∧
            t.out = { s.out with buf := s.out.buf ++ filtered ++ List.replicate z 0 }))

/-- Every pass of the drain loop of a `RUNONCE` issued by `A_CTL`, the first, which the command itself takes, and each later
one, whatever port the last command between them was issued on: with no work it leaves for the low-water test; an iteration that
raises `NaNWeight` ends the `RUNONCE` with that fault, both results zero, and `A_CTL` is free again; any other iteration has the
effect of `ITER` and is counted (R206, R231, R252). How the steps of `RUNONCE` are taken is the model's own (log entry 17). -/
def Obligations.RunonceStartsItsDrainLoop : Prop :=
  ∀ (s : State) (pass : StepOutcome) (n z : Nat), s.sched.held = true →
    (pass = exec .runonce s ∧ s.curPort = .ctl ∧ n = 0 ∧ z = 0) ∨
      (pass = step (s.onTurn (.agent .ctl)) ∧ s.ctl = .runOnce { phase := .drain, n := n, z := z }) →
    (s.mic.buf = [] ∨ s.ref.buf = [] ∨ s.out.cap ≤ s.out.buf.length →
      pass = .next { s with ctl := .runOnce { phase := .lowtest, n := n, z := z } }) ∧
    ∀ (m r : Sample) (ms rs : List Sample), s.mic.buf = m :: ms → s.ref.buf = r :: rs → s.out.buf.length < s.out.cap →
      (s.dl.tail ++ [r]).length = s.w.length →
      let a := adapt s.num s.mu s.epsr s.thr s.w (s.dl.tail ++ [r]) m s.draws
      if a.nan then
        pass = .next (State.answer { s with
          mic := { s.mic with buf := ms }, ref := { s.ref with buf := rs }, dl := s.dl.tail ++ [r]
          w := a.w, draws := a.draws, fault := true, sched := .faulted
          diag := s.diag ++ [DiagEvent.nanWeight], ctl := .ready } .ctl .nanWeight 0 0)
      else ∃ (t : State) (filtered novelty : Sample), exec .iter { s with curPort := .ctl } = .next (t.reply .ok novelty filtered) ∧
        pass = .next { t with curPort := s.curPort, ctl := .runOnce { phase := .drain, n := n + 1, z := z } }

/-- `OUT_OVERRUN` is never set: the loop condition leaves room for the push (R204). -/
def Obligations.OutputOverrunNeverHappens : Prop :=
  ∀ s t : State, step s = .next t → s.outOverrun = false → t.outOverrun = false

/-- Under the default `NUM` every fill ratio is a number in [0, 1] (R211). -/
def Obligations.FillRatiosAreInTheUnitInterval : Prop :=
  ∀ q : Fifo, 1 ≤ q.cap → q.cap < 2 ^ 32 → q.buf.length ≤ q.cap →
    let x := fillRatio binary32 q
    isNaN x = false ∧ binary32.flt x 0x00000000 = false ∧ binary32.fgt x 0x3F800000 = false

/-! ### Run control and registers -/

/-- `START` from `IDLE` or `STOPPED` starts the engine thread at `CHECK`; otherwise it is answered `BadState` or `Faulted` and
changes nothing else (R221). -/
def Obligations.StartStartsTheEngineThread : Prop :=
  ∀ s : State, s.curPort = .ctl →
    (s.sched = .idle ∨ s.sched = .stopped → exec .start s =
      .next ({ s with sched := .running, ph := .check, worked := false, killPending := false, token := false }.reply .ok 0 0)) ∧
    (s.sched = .running ∨ s.sched = .stopRequested → exec .start s = .next (s.reply .badState 0 0)) ∧
    (s.sched = .faulted → exec .start s = .next (s.reply .faulted 0 0))

/-- `STOP` while `RUNNING` sends the shutdown signal and waits, with no response yet; otherwise it is answered `BadState` or
`Panic` and changes nothing else. While a `STOP` waits a turn of `A_CTL` changes nothing (R222). The field `ctl` is the model's
own (log entry 15). -/
def Obligations.StopRequestsAndWaits : Prop :=
  (∀ s : State, s.ctl = .waitStop → step (s.onTurn (.agent .ctl)) = .next s) ∧
  ∀ s : State, s.curPort = .ctl →
    (s.sched = .running → exec .stop s =
      .next { s with killPending := true, sched := .stopRequested, ctl := .waitStop }) ∧
    (s.sched = .idle ∨ s.sched = .stopped → exec .stop s = .next (s.reply .badState 0 0)) ∧
    (s.sched = .faulted → exec .stop s = .next (s.reply .panic 0 0))

/-- `UNPARK` answers OK always, and sets `token` only if it is delivered, which is free, and the engine thread exists (R230).
The draw is numbered by the model's own counter (log entries 3, 5). -/
def Obligations.UnparkIsBestEffort : Prop :=
  ∀ s : State, s.curPort = .mic →
    (∃ delivered : Bool, exec .unpark s =
      .next ({ s with
        token := s.token || (delivered && (s.sched = Sched.running || s.sched = Sched.stopRequested))
        draws := s.draws + 1 }.reply .ok 0 0)) ∧
    (s.sched = .idle ∨ s.sched = .stopped ∨ s.sched = .faulted →
      exec .unpark s = .next ({ s with draws := s.draws + 1 }.reply .ok 0 0))

/-- Phase `CHECK`: a pending shutdown signal stops the engine thread and completes the waiting `STOP` with OK; without one a
pass begins (R223, R224). The field `ctl` is the model's own (log entry 15). -/
def Obligations.CheckStopsOrBeginsAPass : Prop :=
  ∀ s : State, s.sched = .running ∨ s.sched = .stopRequested → s.ph = .check →
    (s.killPending = true → s.ctl = .waitStop → step (s.onTurn (.agent .eng)) =
      .next ({ s with sched := .stopped, killPending := false, ctl := .ready }.answer .ctl .ok 0 0)) ∧
    (s.killPending = false → step (s.onTurn (.agent .eng)) = .next { s with worked := false, ph := .drain })

/-- Phase `DRAIN`: one pass of the drain loop. An iteration sets `worked` and has the effect that `ITER` has under direct
access; no work leads to `LOWTEST` (R225). -/
def Obligations.DrainRunsIterationsUntilNoWork : Prop :=
  ∀ s : State, s.sched = .running ∨ s.sched = .stopRequested → s.ph = .drain →
    (s.mic.buf = [] ∨ s.ref.buf = [] ∨ s.out.cap ≤ s.out.buf.length →
      step (s.onTurn (.agent .eng)) = .next { s with ph := .lowtest }) ∧
    (∀ (t : State) (filtered novelty : Sample),
      exec .iter { s with sched := .idle, curPort := .ctl } = .next (t.reply .ok novelty filtered) →
      step (s.onTurn (.agent .eng)) = .next { t with sched := s.sched, curPort := s.curPort, worked := true })

/-- A fault of the engine thread while a `STOP` waits answers the `STOP` with `Panic`, and the controller is free again; with
none waiting no response is given (R231, R252). The field `ctl` is the model's own (log entry 15). -/
def Obligations.FaultWhileStoppingAnswersPanic : Prop :=
  ∀ (m r : Sample) (ms rs : List Sample) (s : State), s.sched = .running ∨ s.sched = .stopRequested → s.ph = .drain →
    s.mic.buf = m :: ms → s.ref.buf = r :: rs → s.out.buf.length < s.out.cap → (s.dl.tail ++ [r]).length = s.w.length →
    let a := adapt s.num s.mu s.epsr s.thr s.w (s.dl.tail ++ [r]) m s.draws
    let s1 := { s with
      mic := { s.mic with buf := ms }, ref := { s.ref with buf := rs }, dl := s.dl.tail ++ [r]
      w := a.w, draws := a.draws, fault := true, sched := .faulted, diag := s.diag ++ [.nanWeight] }
    ∃ t, step (s.onTurn (.agent .eng)) = .next t ∧
      (if a.nan then
        t = if s.ctl = .waitStop then { s1 with ctl := .ready }.answer .ctl .panic 0 0 else s1
      else t.sched = s.sched ∧ t.fault = s.fault ∧ t.worked = true ∧ t.responses = s.responses)

/-- Phases `LOWTEST` and `REFILL`: a low `OUT` is reported and refilled with one sample of silence a step until it holds
`REFILL` samples, then the pass is decided (R226, R227). -/
def Obligations.LowOutputIsRefilledWithSilence : Prop :=
  ∀ s : State, s.sched = .running ∨ s.sched = .stopRequested →
    (s.ph = .lowtest → s.cfg.lowDen * s.out.buf.length < s.cfg.lowNum * s.out.cap → step (s.onTurn (.agent .eng)) =
      .next { s with starved := true, diag := s.diag ++ [.starved], ph := .refill }) ∧
    (s.ph = .lowtest → s.cfg.lowNum * s.out.cap ≤ s.cfg.lowDen * s.out.buf.length → step (s.onTurn (.agent .eng)) =
      .next { s with ph := .decide }) ∧
    (s.ph = .refill → s.out.buf.length < s.cfg.refill → s.cfg.refill ≤ s.out.cap → step (s.onTurn (.agent .eng)) =
      .next { s with out := { s.out with buf := s.out.buf ++ [0] } }) ∧
    (s.ph = .refill → s.cfg.refill ≤ s.out.buf.length → step (s.onTurn (.agent .eng)) = .next { s with ph := .decide })

/-- Phase `DECIDE`: back to `CHECK` after work or with a token, which is consumed, else to `PARKED`; the wake from `PARKED` is
always enabled (R228, R229). -/
def Obligations.DecideParksAndTheWakeIsAlwaysEnabled : Prop :=
  ∀ s : State, s.sched = .running ∨ s.sched = .stopRequested →
    (s.ph = .decide → s.worked = true → step (s.onTurn (.agent .eng)) = .next { s with ph := .check }) ∧
    (s.ph = .decide → s.worked = false → s.token = true → step (s.onTurn (.agent .eng)) =
      .next { s with token := false, ph := .check }) ∧
    (s.ph = .decide → s.worked = false → s.token = false → step (s.onTurn (.agent .eng)) = .next { s with ph := .parked }) ∧
    (s.ph = .parked → step (s.onTurn (.agent .eng)) = .next { s with token := false, ph := .check })

/-- No value the core computes depends on `token`: a step of the engine thread from two states that differ in `token` alone
gives two states that differ in `token` and `ph` alone (R229). -/
def Obligations.TokenChangesNoComputedValue : Prop :=
  ∀ (s t : State) (b : Bool), engineStep s = .next t →
    ∃ u, engineStep { s with token := b } = .next u ∧ { u with token := t.token, ph := t.ph } = t

/-- `CSRR n` answers register `n` of the table, `BadIndex` above 0x19, and changes nothing (R55, R232). That `FSHZ` and `NTAPS`
give a parameter of 2^32 or more modulo 2^32 is the model's own (log entry 22). -/
def Obligations.CsrrAnswersTheRegister : Prop :=
  ∀ s : State, s.curPort = .ctl →
    (∀ n v, (n, v) ∈ [(0x00, s.statusWord), (0x01, if s.telemEn then 1 else 0), (0x02, s.mu), (0x03, s.epsr), (0x04, s.thr),
        (0x05, BitVec.ofNat 32 s.iter), (0x06, BitVec.ofNat 32 s.cfg.n), (0x07, BitVec.ofNat 32 s.cfg.fs),
        (0x08, s.lp.c.b0), (0x09, s.lp.c.b1), (0x0A, s.lp.c.b2), (0x0B, s.lp.c.a1), (0x0C, s.lp.c.a2),
        (0x0D, s.lp.x1), (0x0E, s.lp.x2), (0x0F, s.lp.y1), (0x10, s.lp.y2),
        (0x11, s.hp.c.b0), (0x12, s.hp.c.b1), (0x13, s.hp.c.b2), (0x14, s.hp.c.a1), (0x15, s.hp.c.a2),
        (0x16, s.hp.x1), (0x17, s.hp.x2), (0x18, s.hp.y1), (0x19, s.hp.y2)] →
      exec (.csrr n) s = .next (s.reply .ok 0 v)) ∧
    (∀ n, 0x19 < n → exec (.csrr n) s = .next (s.reply .badIndex 0 0))

/-- The fields of `STATUS` with the codes of `SCHED` and `ph` (R46, R47, R56). -/
def Obligations.StatusHoldsItsFields : Prop :=
  ∀ s : State,
    s.statusWord.extractLsb' 0 3 =
      (match s.sched with | .idle => 0 | .running => 1 | .stopRequested => 2 | .stopped => 3 | .faulted => 4) ∧
    s.statusWord.getLsbD 3 = s.fault ∧
    s.statusWord.getLsbD 4 = s.outOverrun ∧ s.statusWord.getLsbD 5 = s.starved ∧ s.statusWord.extractLsb' 6 2 = 0 ∧
    s.statusWord.extractLsb' 8 3 =
      (match s.ph with | .check => 0 | .drain => 1 | .lowtest => 2 | .refill => 3 | .decide => 4 | .parked => 5) ∧
    s.statusWord.getLsbD 11 = s.worked ∧
    s.statusWord.getLsbD 12 = s.killPending ∧ s.statusWord.getLsbD 13 = s.token ∧ s.statusWord.extractLsb' 14 18 = 0

/-- `CSRW` writes `TELEM_EN` from bit 0 of its value, or `THR`; any other number is answered `BadIndex` and changes nothing
(R233). -/
def Obligations.CsrwWritesCtrlAndThrOnly : Prop :=
  ∀ (n : Nat) (v : BitVec 32) (s : State), s.DirectAccess →
    exec (.csrw 0x01 v) s = .next ({ s with telemEn := v.getLsbD 0 }.reply .ok 0 0) ∧
    exec (.csrw 0x04 v) s = .next ({ s with thr := v }.reply .ok 0 0) ∧
    (n ≠ 0x01 → n ≠ 0x04 → exec (.csrw n v) s = .next (s.reply .badIndex 0 0))

/-! ### Whole machine -/

/-- Every step other than reset takes `SCHED` along a transition of R220 or leaves it. -/
def Obligations.SchedulerTransitionsAreThoseListed : Prop :=
  ∀ s t : State, Inv s → step s = .next t → s.turns.head? ≠ some .reset → s.sched.mayBecome t.sched = true

/-- Nothing but reset leaves `FAULTED` or clears `FAULT`, and the engine does not change any more (R252, R253). -/
def Obligations.OnlyResetLeavesTheFault : Prop :=
  ∀ s t : State, Inv s → s.sched = .faulted → step s = .next t → s.turns.head? ≠ some .reset →
    t.sched = .faulted ∧ t.fault = true ∧ t.engine = s.engine ∧ t.ph = s.ph

/-- A requested stop completes when no data comes: with one input empty and the engine thread alone stepping, `STOP` is answered
OK and `SCHED` is `STOPPED` within `REFILL` + 6 steps; and so it is, with no bound, under every schedule that is weakly fair to
`A_ENG`, whatever `A_MIC`, `A_REF` and `A_CTL` do, as long as one input stays empty, `A_OUT` is idle and no reset comes. A
weakly fair schedule that keeps `cond` true for ever can postpone it for ever (R222, R223, R236). That the engine thread steps
when the schedule is empty, and how a schedule is offered to the machine, is the model's own (log entries 11, 15, 29). -/
def Obligations.StopReturnsWithoutData : Prop :=
  (∀ s : State, Inv s → s.sched = .stopRequested → s.turns = [] → s.mic.buf = [] ∨ s.ref.buf = [] →
    ∃ k ≤ s.cfg.refill + 6, ∃ t, core.run k s = .next t ∧ t.sched = .stopped ∧ t.ctl = .ready ∧ t.killPending = false ∧
      t.responses = s.responses ++ [{ port := .ctl, st := .ok, d1 := 0, d0 := 0 }] ∧ t.engine = s.engine) ∧
  (∀ (events : Schedule) (s : State), Inv s → s.sched = .stopRequested → WeaklyFair events s →
    (∀ k, (events k).turn ≠ .reset ∧ (events k).turn ≠ .agent .out) →
    (∀ k t, follow events s k = .next t → t.mic.buf = [] ∨ t.ref.buf = []) →
    ∃ k t, follow events s k = .next t ∧ t.sched = .stopped ∧ t.ctl = .ready ∧ t.killPending = false ∧
      t.responses.getLast? = some { port := .ctl, st := .ok, d1 := 0, d0 := 0 } ∧ t.engine = s.engine) ∧
  ∃ (events : Schedule) (s : State), Inv s ∧ s.sched = .stopRequested ∧ WeaklyFair events s ∧
    ∀ k, ∃ t, follow events s k = .next t ∧ t.sched = .stopRequested ∧
      ((events k).turn = .agent .eng → t.ph = .drain ∧ t.cond = true)

/-- A command on a callback port never changes the engine, nor `SCHED`, `ph`, `worked` or `kill_pending`, and each FIFO only as
its role allows: `P_MIC` and `P_REF` add at the tail of their own FIFO, `P_OUT` removes from the head of its own, `P_MIC` may
set `token` (R257). -/
def Obligations.CallbackPortsCannotTouchTheEngine : Prop :=
  ∀ (i : Instr) (s t : State), s.curPort ≠ .ctl → exec i s = .next t →
    t.engine = s.engine ∧ t.control = { s.control with token := t.token } ∧
    (s.curPort ≠ .mic → t.mic = s.mic ∧ t.token = s.token) ∧ (s.curPort ≠ .ref → t.ref = s.ref) ∧
    (s.curPort ≠ .out → t.out = s.out) ∧
    (s.curPort = .mic → t.mic.cap = s.mic.cap ∧ s.mic.buf <+: t.mic.buf ∧ (s.token = true → t.token = true)) ∧
    (s.curPort = .ref → t.ref.cap = s.ref.cap ∧ s.ref.buf <+: t.ref.buf) ∧
    (s.curPort = .out → t.out.cap = s.out.cap ∧ t.out.buf <:+ s.out.buf)

/-- The histories are append-only and the sticky flags stay set, until reset (R51, R58). The list of responses, which only grows
too, is the model's own (log entry 14). -/
def Obligations.HistoriesGrowAndFlagsStick : Prop :=
  ∀ s t : State, step s = .next t → s.turns.head? ≠ some .reset →
    s.telemetry <+: t.telemetry ∧ s.diag <+: t.diag ∧ s.responses <+: t.responses ∧
    (s.fault = true → t.fault = true) ∧ (s.starved = true → t.starved = true) ∧
    (s.outOverrun = true → t.outOverrun = true)

/-- The parameters and, reset apart, the capacities never change (R31, R58). -/
def Obligations.ParametersAndCapacitiesAreConstant : Prop :=
  ∀ s t : State, step s = .next t →
    t.cfg = s.cfg ∧
    (s.turns.head? ≠ some .reset → t.mic.cap = s.mic.cap ∧ t.ref.cap = s.ref.cap ∧ t.out.cap = s.out.cap)

/-- Every step from a state that satisfies the invariant has a next state, and that state satisfies it: the storages keep their
form, with `FAULT` = 0 no weight is a NaN under a `NUM` that calls no finite sample a NaN, as the default does, and the
run-control registers stay consistent (R32, R35, R39, R47, R231). The clauses on `ctl` are the model's own (log entry 15). -/
def Obligations.EveryStepKeepsTheInvariant : Prop :=
  ∀ s : State, Inv s → ∃ t, step s = .next t ∧ Inv t

/-- The invariant holds right after reset. -/
def Obligations.ResetSatisfiesTheInvariant : Prop := Inv State.reset

/-- What reset leaves with any parameters: the values of R59, the weights being `N` finite samples, otherwise free. -/
def Obligations.ResetLeavesTheValuesOfTheTable : Prop :=
  ∀ (c : Params) (k : Nat),
    let s := State.boot c k
    s.mic = { cap := c.capMic, buf := [] } ∧ s.ref = { cap := c.capRef, buf := [] } ∧ s.out = { cap := c.capOut, buf := [] } ∧
    s.dl = List.replicate c.n 0 ∧ s.w.length = c.n ∧ (∀ x ∈ s.w, Config.IsFinite x) ∧
    s.mu = c.mu0 ∧ s.epsr = c.eps ∧ s.thr = c.thr0 ∧
    s.lp = { c := c.cLp, x1 := 0, x2 := 0, y1 := 0, y2 := 0 } ∧ s.hp = { c := c.cHp, x1 := 0, x2 := 0, y1 := 0, y2 := 0 } ∧
    s.iter = 0 ∧ s.telemEn = false ∧ s.sched = .idle ∧ s.ph = .check ∧ s.worked = false ∧ s.killPending = false ∧
    s.token = false ∧ s.fault = false ∧ s.outOverrun = false ∧ s.starved = false ∧ s.telemetry = [] ∧ s.diag = []

/-- A reset turn builds everything again from the same parameters with a fresh draw of the weights, whatever the state, and
leaves alone what the agents have yet to issue (R60, R270). What stays is the model's own choice (log entry 19). -/
def Obligations.ResetTurnRebuildsTheCore : Prop :=
  ∀ s : State, step (s.onTurn .reset) =
    .next { State.boot s.cfg s.draws with inbox := s.inbox, turns := s.turns }

/-! ### Numerics -/

/-- The default `NUM` rounds to nearest with ties to even. The rounding of `n / d` (in units of 2^-149) is at least as near as
any other finite pattern, and on a tie its last bit is 0; `fadd`, `fsub`, `fmul`, `fdiv` on finite samples and `u2f` give the
rounding of the exact sum, difference, product, quotient and integer, with the signs of zeros; the sum runs from index 0 upward
from `+0.0`, and the maximum from the first element upward by `fgt` (R13, R15). -/
def Obligations.RoundingIsToNearestEven : Prop :=
  (∀ n d other : Nat, 0 < d → roundLow n d < infLow → other < infLow →
    let near := ((n : Int) - d * magnitude (withSign false (roundLow n d))).natAbs
    let far := ((n : Int) - d * magnitude (withSign false other)).natAbs
    near ≤ far ∧ (near = far → other ≠ roundLow n d → roundLow n d % 2 = 0)) ∧
  (∀ a b : Sample, Config.IsFinite a → Config.IsFinite b →
    RoundsTo (scaled a + scaled b) 1 (binary32.fadd a b) ∧ RoundsTo (scaled a - scaled b) 1 (binary32.fsub a b) ∧
    RoundsTo (scaled a * scaled b) (2 ^ 149) (binary32.fmul a b) ∧
    (scaled b ≠ 0 → RoundsTo (scaled a * 2 ^ 149 * (scaled b).sign) (scaled b).natAbs (binary32.fdiv a b)) ∧
    (scaled a + scaled b = 0 → signBit (binary32.fadd a b) = (signBit a && signBit b)) ∧
    (scaled a - scaled b = 0 → signBit (binary32.fsub a b) = (signBit a && !signBit b)) ∧
    signBit (binary32.fmul a b) = (signBit a != signBit b) ∧
    (scaled b ≠ 0 → signBit (binary32.fdiv a b) = (signBit a != signBit b))) ∧
  (∀ n : Nat, RoundsTo (n * 2 ^ 149) 1 (binary32.u2f n)) ∧
  (∀ (l : List Sample) (x : Sample), binary32.sum [] = 0 ∧ binary32.sum (l ++ [x]) = binary32.fadd (binary32.sum l) x) ∧
  ∀ (l : List Sample) (a x : Sample), binary32.max [a] = a ∧
    binary32.max (a :: l ++ [x]) = if binary32.fgt x (binary32.max (a :: l)) then x else binary32.max (a :: l)

/-- Comparisons, NaNs and infinities of the default `NUM`: `isnan` reads the fields, `fabs` clears bit 31; a NaN operand gives a
NaN and makes comparisons false; on two samples that are no NaN `flt` and `fgt` compare the exact values, an infinity beyond
every finite one; an operation makes a NaN only of opposed infinities, of an infinity and a zero, or of two zeros or infinities
divided; otherwise an infinite operand, or a division by zero, gives an infinity of the operation's sign, and a division by
infinity a zero (R13). -/
def Obligations.NaNsPropagateAndCompareFalse : Prop :=
  (∀ a : Sample, binary32.fabs a = a &&& 0x7FFFFFFF) ∧
  (∀ a b : Sample, binary32.isnan a = true →
    binary32.flt a b = false ∧ binary32.flt b a = false ∧ binary32.fgt a b = false ∧ binary32.fgt b a = false ∧
    binary32.isnan (binary32.fadd a b) = true ∧ binary32.isnan (binary32.fadd b a) = true ∧
    binary32.isnan (binary32.fsub a b) = true ∧ binary32.isnan (binary32.fsub b a) = true ∧
    binary32.isnan (binary32.fmul a b) = true ∧ binary32.isnan (binary32.fmul b a) = true ∧
    binary32.isnan (binary32.fdiv a b) = true ∧ binary32.isnan (binary32.fdiv b a) = true ∧
    binary32.isnan (binary32.fabs a) = true) ∧
  (∀ a : Sample, binary32.isnan a = (a.extractLsb' 23 8 = 255 && a.extractLsb' 0 23 ≠ 0)) ∧
  ∀ a b : Sample, binary32.isnan a = false → binary32.isnan b = false →
    (binary32.flt a b = true ↔ scaled a < scaled b) ∧ (binary32.fgt a b = true ↔ scaled b < scaled a) ∧
    (binary32.isnan (binary32.fadd a b) = true ↔ isInf a = true ∧ isInf b = true ∧ signBit a ≠ signBit b) ∧
    (binary32.isnan (binary32.fsub a b) = true ↔ isInf a = true ∧ isInf b = true ∧ signBit a = signBit b) ∧
    (binary32.isnan (binary32.fmul a b) = true ↔ isInf a = true ∧ scaled b = 0 ∨ scaled a = 0 ∧ isInf b = true) ∧
    (binary32.isnan (binary32.fdiv a b) = true ↔ isInf a = true ∧ isInf b = true ∨ scaled a = 0 ∧ scaled b = 0) ∧
    (binary32.isnan (binary32.fadd a b) = false →
      (isInf a = true → binary32.fadd a b = a) ∧ (isInf b = true → binary32.fadd a b = b)) ∧
    (binary32.isnan (binary32.fsub a b) = false →
      (isInf a = true → binary32.fsub a b = a) ∧ (isInf b = true → binary32.fsub a b = b ^^^ 0x80000000)) ∧
    (binary32.isnan (binary32.fmul a b) = false → signBit (binary32.fmul a b) = (signBit a != signBit b) ∧
      (isInf a = true ∨ isInf b = true → isInf (binary32.fmul a b) = true)) ∧
    (binary32.isnan (binary32.fdiv a b) = false → signBit (binary32.fdiv a b) = (signBit a != signBit b) ∧
      (isInf a = true ∨ scaled b = 0 → isInf (binary32.fdiv a b) = true) ∧
      (isInf b = true → scaled (binary32.fdiv a b) = 0))
end

