-- ==== Sys2Proof/Laws/Decode.lean ====
section
/-! SUPPORT. The fields of an assembled command word, and what the decoder reads from one. -/

namespace Sys2Proof

variable (op : BitVec 8) (unit : BitVec 4) (aux : BitVec 20) (data : BitVec 32)

@[simp] theorem opField_assemble : opField (assemble op unit aux data) = op := by
  unfold opField assemble
  rw [BitVec.extractLsb'_append_eq_of_le (by omega), BitVec.extractLsb'_append_eq_of_le (by omega),
    BitVec.extractLsb'_append_eq_of_le (by omega)]
  simp

@[simp] theorem unitField_assemble : unitField (assemble op unit aux data) = unit := by
  unfold unitField assemble
  rw [BitVec.extractLsb'_append_eq_of_le (by omega), BitVec.extractLsb'_append_eq_of_le (by omega),
    BitVec.extractLsb'_append_eq_of_add_le (by omega)]
  simp

@[simp] theorem auxField_assemble : auxField (assemble op unit aux data) = aux := by
  unfold auxField assemble
  rw [BitVec.extractLsb'_append_eq_of_le (by omega), BitVec.extractLsb'_append_eq_of_add_le (by omega)]
  simp

@[simp] theorem dataField_assemble : dataField (assemble op unit aux data) = data := by
  unfold dataField assemble
  rw [BitVec.extractLsb'_append_eq_of_add_le (by omega)]
  simp

/-- Every word is its four fields put together. -/
theorem assemble_fields (w : Command) : assemble (opField w) (unitField w) (auxField w) (dataField w) = w := by
  unfold assemble opField unitField auxField dataField
  ext i hi
  simp only [BitVec.getElem_append, BitVec.getElem_extractLsb']
  split <;> [skip; split <;> [skip; split]] <;> (rw [← BitVec.getLsbD_eq_getElem]; congr 1; omega)

/-- The decoder on an assembled word, by the form of its `op` and `unit`. -/
theorem decode_assemble {f : Form} (h : formOf op.toNat unit.toNat = .ok f) :
    decode (assemble op unit aux data) = f.read aux data := by
  simp [decode, h]

/-- A mode is read back from its code. -/
@[simp] theorem modeOfCode_code (m : Mode) : modeOfCode m.code = some m := by cases m <;> rfl

/-- A code that reads as a mode is that mode's code. -/
theorem code_of_modeOfCode {c : Nat} {m : Mode} (h : modeOfCode c = some m) : m.code = c := by
  unfold modeOfCode at h
  split at h <;> first | (cases h; rfl) | cases h

end Sys2Proof
end

