-- ==== Sys2Proof/Laws/State.lean ====
section
/-! SUPPORT. One lemma per field per shared update of the state, so that no proof unfolds a record update. -/

namespace Sys2Proof.Machine

/-- `NUM` is a parameter: states with the same parameters compute alike (R13). -/
theorem num_congr {s t : State} (h : t.cfg = s.cfg) : t.num = s.num := congrArg (fun c : Params => numerics c.num) h

variable (s : State)

/-! ### `State.answer`: the responses alone -/

@[simp] theorem answer_cfg (p : Port) (st : Status) (d1 d0 : BitVec 32) : (s.answer p st d1 d0).cfg = s.cfg := rfl
@[simp] theorem answer_num (p : Port) (st : Status) (d1 d0 : BitVec 32) : (s.answer p st d1 d0).num = s.num := num_congr (answer_cfg s p st d1 d0)
@[simp] theorem answer_mic (p : Port) (st : Status) (d1 d0 : BitVec 32) : (s.answer p st d1 d0).mic = s.mic := rfl
@[simp] theorem answer_ref (p : Port) (st : Status) (d1 d0 : BitVec 32) : (s.answer p st d1 d0).ref = s.ref := rfl
@[simp] theorem answer_out (p : Port) (st : Status) (d1 d0 : BitVec 32) : (s.answer p st d1 d0).out = s.out := rfl
@[simp] theorem answer_dl (p : Port) (st : Status) (d1 d0 : BitVec 32) : (s.answer p st d1 d0).dl = s.dl := rfl
@[simp] theorem answer_w (p : Port) (st : Status) (d1 d0 : BitVec 32) : (s.answer p st d1 d0).w = s.w := rfl
@[simp] theorem answer_mu (p : Port) (st : Status) (d1 d0 : BitVec 32) : (s.answer p st d1 d0).mu = s.mu := rfl
@[simp] theorem answer_epsr (p : Port) (st : Status) (d1 d0 : BitVec 32) : (s.answer p st d1 d0).epsr = s.epsr := rfl
@[simp] theorem answer_thr (p : Port) (st : Status) (d1 d0 : BitVec 32) : (s.answer p st d1 d0).thr = s.thr := rfl
@[simp] theorem answer_lp (p : Port) (st : Status) (d1 d0 : BitVec 32) : (s.answer p st d1 d0).lp = s.lp := rfl
@[simp] theorem answer_hp (p : Port) (st : Status) (d1 d0 : BitVec 32) : (s.answer p st d1 d0).hp = s.hp := rfl
@[simp] theorem answer_iter (p : Port) (st : Status) (d1 d0 : BitVec 32) : (s.answer p st d1 d0).iter = s.iter := rfl
@[simp] theorem answer_telemEn (p : Port) (st : Status) (d1 d0 : BitVec 32) : (s.answer p st d1 d0).telemEn = s.telemEn := rfl
@[simp] theorem answer_sched (p : Port) (st : Status) (d1 d0 : BitVec 32) : (s.answer p st d1 d0).sched = s.sched := rfl
@[simp] theorem answer_ph (p : Port) (st : Status) (d1 d0 : BitVec 32) : (s.answer p st d1 d0).ph = s.ph := rfl
@[simp] theorem answer_worked (p : Port) (st : Status) (d1 d0 : BitVec 32) : (s.answer p st d1 d0).worked = s.worked := rfl
@[simp] theorem answer_killPending (p : Port) (st : Status) (d1 d0 : BitVec 32) : (s.answer p st d1 d0).killPending = s.killPending := rfl
@[simp] theorem answer_token (p : Port) (st : Status) (d1 d0 : BitVec 32) : (s.answer p st d1 d0).token = s.token := rfl
@[simp] theorem answer_fault (p : Port) (st : Status) (d1 d0 : BitVec 32) : (s.answer p st d1 d0).fault = s.fault := rfl
@[simp] theorem answer_outOverrun (p : Port) (st : Status) (d1 d0 : BitVec 32) : (s.answer p st d1 d0).outOverrun = s.outOverrun := rfl
@[simp] theorem answer_starved (p : Port) (st : Status) (d1 d0 : BitVec 32) : (s.answer p st d1 d0).starved = s.starved := rfl
@[simp] theorem answer_telemetry (p : Port) (st : Status) (d1 d0 : BitVec 32) : (s.answer p st d1 d0).telemetry = s.telemetry := rfl
@[simp] theorem answer_diag (p : Port) (st : Status) (d1 d0 : BitVec 32) : (s.answer p st d1 d0).diag = s.diag := rfl
@[simp] theorem answer_ctl (p : Port) (st : Status) (d1 d0 : BitVec 32) : (s.answer p st d1 d0).ctl = s.ctl := rfl
@[simp] theorem answer_curPort (p : Port) (st : Status) (d1 d0 : BitVec 32) : (s.answer p st d1 d0).curPort = s.curPort := rfl
@[simp] theorem answer_inbox (p : Port) (st : Status) (d1 d0 : BitVec 32) : (s.answer p st d1 d0).inbox = s.inbox := rfl
@[simp] theorem answer_turns (p : Port) (st : Status) (d1 d0 : BitVec 32) : (s.answer p st d1 d0).turns = s.turns := rfl
@[simp] theorem answer_responses (p : Port) (st : Status) (d1 d0 : BitVec 32) : (s.answer p st d1 d0).responses = s.responses ++ [{ port := p, st := st, d1 := d1, d0 := d0 }] := rfl
@[simp] theorem answer_draws (p : Port) (st : Status) (d1 d0 : BitVec 32) : (s.answer p st d1 d0).draws = s.draws := rfl

/-- A reply is an answer on the port of the command. -/
@[simp] theorem reply_eq_answer (st : Status) (d1 d0 : BitVec 32) : s.reply st d1 d0 = s.answer s.curPort st d1 d0 := rfl

/-! ### `State.report`: one sticky flag and the diagnostic history -/

@[simp] theorem report_cfg (e : DiagEvent) : (s.report e).cfg = s.cfg := by cases e <;> simp [State.report]
@[simp] theorem report_num (e : DiagEvent) : (s.report e).num = s.num := num_congr (report_cfg s e)
@[simp] theorem report_mic (e : DiagEvent) : (s.report e).mic = s.mic := by cases e <;> simp [State.report]
@[simp] theorem report_ref (e : DiagEvent) : (s.report e).ref = s.ref := by cases e <;> simp [State.report]
@[simp] theorem report_out (e : DiagEvent) : (s.report e).out = s.out := by cases e <;> simp [State.report]
@[simp] theorem report_dl (e : DiagEvent) : (s.report e).dl = s.dl := by cases e <;> simp [State.report]
@[simp] theorem report_w (e : DiagEvent) : (s.report e).w = s.w := by cases e <;> simp [State.report]
@[simp] theorem report_mu (e : DiagEvent) : (s.report e).mu = s.mu := by cases e <;> simp [State.report]
@[simp] theorem report_epsr (e : DiagEvent) : (s.report e).epsr = s.epsr := by cases e <;> simp [State.report]
@[simp] theorem report_thr (e : DiagEvent) : (s.report e).thr = s.thr := by cases e <;> simp [State.report]
@[simp] theorem report_lp (e : DiagEvent) : (s.report e).lp = s.lp := by cases e <;> simp [State.report]
@[simp] theorem report_hp (e : DiagEvent) : (s.report e).hp = s.hp := by cases e <;> simp [State.report]
@[simp] theorem report_iter (e : DiagEvent) : (s.report e).iter = s.iter := by cases e <;> simp [State.report]
@[simp] theorem report_telemEn (e : DiagEvent) : (s.report e).telemEn = s.telemEn := by cases e <;> simp [State.report]
@[simp] theorem report_sched (e : DiagEvent) : (s.report e).sched = s.sched := by cases e <;> simp [State.report]
@[simp] theorem report_ph (e : DiagEvent) : (s.report e).ph = s.ph := by cases e <;> simp [State.report]
@[simp] theorem report_worked (e : DiagEvent) : (s.report e).worked = s.worked := by cases e <;> simp [State.report]
@[simp] theorem report_killPending (e : DiagEvent) : (s.report e).killPending = s.killPending := by cases e <;> simp [State.report]
@[simp] theorem report_token (e : DiagEvent) : (s.report e).token = s.token := by cases e <;> simp [State.report]
@[simp] theorem report_fault (e : DiagEvent) : (s.report e).fault = (s.fault || decide (e = .nanWeight)) := by cases e <;> simp [State.report]
@[simp] theorem report_outOverrun (e : DiagEvent) : (s.report e).outOverrun = (s.outOverrun || decide (e = .outOverrun)) := by cases e <;> simp [State.report]
@[simp] theorem report_starved (e : DiagEvent) : (s.report e).starved = (s.starved || decide (e = .starved)) := by cases e <;> simp [State.report]
@[simp] theorem report_telemetry (e : DiagEvent) : (s.report e).telemetry = s.telemetry := by cases e <;> simp [State.report]
@[simp] theorem report_diag (e : DiagEvent) : (s.report e).diag = s.diag ++ [e] := by cases e <;> simp [State.report]
@[simp] theorem report_ctl (e : DiagEvent) : (s.report e).ctl = s.ctl := by cases e <;> simp [State.report]
@[simp] theorem report_curPort (e : DiagEvent) : (s.report e).curPort = s.curPort := by cases e <;> simp [State.report]
@[simp] theorem report_inbox (e : DiagEvent) : (s.report e).inbox = s.inbox := by cases e <;> simp [State.report]
@[simp] theorem report_turns (e : DiagEvent) : (s.report e).turns = s.turns := by cases e <;> simp [State.report]
@[simp] theorem report_responses (e : DiagEvent) : (s.report e).responses = s.responses := by cases e <;> simp [State.report]
@[simp] theorem report_draws (e : DiagEvent) : (s.report e).draws = s.draws := by cases e <;> simp [State.report]

/-! ### `State.raiseNaNWeight`: the fault entry of R252 -/

@[simp] theorem raiseNaNWeight_cfg : (s.raiseNaNWeight).cfg = s.cfg := rfl
@[simp] theorem raiseNaNWeight_num : (s.raiseNaNWeight).num = s.num := num_congr (raiseNaNWeight_cfg s)
@[simp] theorem raiseNaNWeight_mic : (s.raiseNaNWeight).mic = s.mic := rfl
@[simp] theorem raiseNaNWeight_ref : (s.raiseNaNWeight).ref = s.ref := rfl
@[simp] theorem raiseNaNWeight_out : (s.raiseNaNWeight).out = s.out := rfl
@[simp] theorem raiseNaNWeight_dl : (s.raiseNaNWeight).dl = s.dl := rfl
@[simp] theorem raiseNaNWeight_w : (s.raiseNaNWeight).w = s.w := rfl
@[simp] theorem raiseNaNWeight_mu : (s.raiseNaNWeight).mu = s.mu := rfl
@[simp] theorem raiseNaNWeight_epsr : (s.raiseNaNWeight).epsr = s.epsr := rfl
@[simp] theorem raiseNaNWeight_thr : (s.raiseNaNWeight).thr = s.thr := rfl
@[simp] theorem raiseNaNWeight_lp : (s.raiseNaNWeight).lp = s.lp := rfl
@[simp] theorem raiseNaNWeight_hp : (s.raiseNaNWeight).hp = s.hp := rfl
@[simp] theorem raiseNaNWeight_iter : (s.raiseNaNWeight).iter = s.iter := rfl
@[simp] theorem raiseNaNWeight_telemEn : (s.raiseNaNWeight).telemEn = s.telemEn := rfl
@[simp] theorem raiseNaNWeight_sched : (s.raiseNaNWeight).sched = .faulted := rfl
@[simp] theorem raiseNaNWeight_ph : (s.raiseNaNWeight).ph = s.ph := rfl
@[simp] theorem raiseNaNWeight_worked : (s.raiseNaNWeight).worked = s.worked := rfl
@[simp] theorem raiseNaNWeight_killPending : (s.raiseNaNWeight).killPending = s.killPending := rfl
@[simp] theorem raiseNaNWeight_token : (s.raiseNaNWeight).token = s.token := rfl
@[simp] theorem raiseNaNWeight_fault : (s.raiseNaNWeight).fault = true := rfl
@[simp] theorem raiseNaNWeight_outOverrun : (s.raiseNaNWeight).outOverrun = s.outOverrun := rfl
@[simp] theorem raiseNaNWeight_starved : (s.raiseNaNWeight).starved = s.starved := rfl
@[simp] theorem raiseNaNWeight_telemetry : (s.raiseNaNWeight).telemetry = s.telemetry := rfl
@[simp] theorem raiseNaNWeight_diag : (s.raiseNaNWeight).diag = s.diag ++ [.nanWeight] := rfl
@[simp] theorem raiseNaNWeight_ctl : (s.raiseNaNWeight).ctl = s.ctl := rfl
@[simp] theorem raiseNaNWeight_curPort : (s.raiseNaNWeight).curPort = s.curPort := rfl
@[simp] theorem raiseNaNWeight_inbox : (s.raiseNaNWeight).inbox = s.inbox := rfl
@[simp] theorem raiseNaNWeight_turns : (s.raiseNaNWeight).turns = s.turns := rfl
@[simp] theorem raiseNaNWeight_responses : (s.raiseNaNWeight).responses = s.responses := rfl
@[simp] theorem raiseNaNWeight_draws : (s.raiseNaNWeight).draws = s.draws := rfl

/-! ### `State.setFifo`: one FIFO -/

@[simp] theorem setFifo_cfg (q : FifoId) (f : Fifo) : (s.setFifo q f).cfg = s.cfg := by cases q <;> rfl
@[simp] theorem setFifo_num (q : FifoId) (f : Fifo) : (s.setFifo q f).num = s.num := num_congr (setFifo_cfg s q f)
@[simp] theorem setFifo_mic (q : FifoId) (f : Fifo) : (s.setFifo q f).mic = (if q = .mic then f else s.mic) := by cases q <;> rfl
@[simp] theorem setFifo_ref (q : FifoId) (f : Fifo) : (s.setFifo q f).ref = (if q = .ref then f else s.ref) := by cases q <;> rfl
@[simp] theorem setFifo_out (q : FifoId) (f : Fifo) : (s.setFifo q f).out = (if q = .out then f else s.out) := by cases q <;> rfl
@[simp] theorem setFifo_dl (q : FifoId) (f : Fifo) : (s.setFifo q f).dl = s.dl := by cases q <;> rfl
@[simp] theorem setFifo_w (q : FifoId) (f : Fifo) : (s.setFifo q f).w = s.w := by cases q <;> rfl
@[simp] theorem setFifo_mu (q : FifoId) (f : Fifo) : (s.setFifo q f).mu = s.mu := by cases q <;> rfl
@[simp] theorem setFifo_epsr (q : FifoId) (f : Fifo) : (s.setFifo q f).epsr = s.epsr := by cases q <;> rfl
@[simp] theorem setFifo_thr (q : FifoId) (f : Fifo) : (s.setFifo q f).thr = s.thr := by cases q <;> rfl
@[simp] theorem setFifo_lp (q : FifoId) (f : Fifo) : (s.setFifo q f).lp = s.lp := by cases q <;> rfl
@[simp] theorem setFifo_hp (q : FifoId) (f : Fifo) : (s.setFifo q f).hp = s.hp := by cases q <;> rfl
@[simp] theorem setFifo_iter (q : FifoId) (f : Fifo) : (s.setFifo q f).iter = s.iter := by cases q <;> rfl
@[simp] theorem setFifo_telemEn (q : FifoId) (f : Fifo) : (s.setFifo q f).telemEn = s.telemEn := by cases q <;> rfl
@[simp] theorem setFifo_sched (q : FifoId) (f : Fifo) : (s.setFifo q f).sched = s.sched := by cases q <;> rfl
@[simp] theorem setFifo_ph (q : FifoId) (f : Fifo) : (s.setFifo q f).ph = s.ph := by cases q <;> rfl
@[simp] theorem setFifo_worked (q : FifoId) (f : Fifo) : (s.setFifo q f).worked = s.worked := by cases q <;> rfl
@[simp] theorem setFifo_killPending (q : FifoId) (f : Fifo) : (s.setFifo q f).killPending = s.killPending := by cases q <;> rfl
@[simp] theorem setFifo_token (q : FifoId) (f : Fifo) : (s.setFifo q f).token = s.token := by cases q <;> rfl
@[simp] theorem setFifo_fault (q : FifoId) (f : Fifo) : (s.setFifo q f).fault = s.fault := by cases q <;> rfl
@[simp] theorem setFifo_outOverrun (q : FifoId) (f : Fifo) : (s.setFifo q f).outOverrun = s.outOverrun := by cases q <;> rfl
@[simp] theorem setFifo_starved (q : FifoId) (f : Fifo) : (s.setFifo q f).starved = s.starved := by cases q <;> rfl
@[simp] theorem setFifo_telemetry (q : FifoId) (f : Fifo) : (s.setFifo q f).telemetry = s.telemetry := by cases q <;> rfl
@[simp] theorem setFifo_diag (q : FifoId) (f : Fifo) : (s.setFifo q f).diag = s.diag := by cases q <;> rfl
@[simp] theorem setFifo_ctl (q : FifoId) (f : Fifo) : (s.setFifo q f).ctl = s.ctl := by cases q <;> rfl
@[simp] theorem setFifo_curPort (q : FifoId) (f : Fifo) : (s.setFifo q f).curPort = s.curPort := by cases q <;> rfl
@[simp] theorem setFifo_inbox (q : FifoId) (f : Fifo) : (s.setFifo q f).inbox = s.inbox := by cases q <;> rfl
@[simp] theorem setFifo_turns (q : FifoId) (f : Fifo) : (s.setFifo q f).turns = s.turns := by cases q <;> rfl
@[simp] theorem setFifo_responses (q : FifoId) (f : Fifo) : (s.setFifo q f).responses = s.responses := by cases q <;> rfl
@[simp] theorem setFifo_draws (q : FifoId) (f : Fifo) : (s.setFifo q f).draws = s.draws := by cases q <;> rfl

/-! ### `State.setBiquad`: one biquad -/

@[simp] theorem setBiquad_cfg (q : BiquadId) (b : Biquad) : (s.setBiquad q b).cfg = s.cfg := by cases q <;> rfl
@[simp] theorem setBiquad_num (q : BiquadId) (b : Biquad) : (s.setBiquad q b).num = s.num := num_congr (setBiquad_cfg s q b)
@[simp] theorem setBiquad_mic (q : BiquadId) (b : Biquad) : (s.setBiquad q b).mic = s.mic := by cases q <;> rfl
@[simp] theorem setBiquad_ref (q : BiquadId) (b : Biquad) : (s.setBiquad q b).ref = s.ref := by cases q <;> rfl
@[simp] theorem setBiquad_out (q : BiquadId) (b : Biquad) : (s.setBiquad q b).out = s.out := by cases q <;> rfl
@[simp] theorem setBiquad_dl (q : BiquadId) (b : Biquad) : (s.setBiquad q b).dl = s.dl := by cases q <;> rfl
@[simp] theorem setBiquad_w (q : BiquadId) (b : Biquad) : (s.setBiquad q b).w = s.w := by cases q <;> rfl
@[simp] theorem setBiquad_mu (q : BiquadId) (b : Biquad) : (s.setBiquad q b).mu = s.mu := by cases q <;> rfl
@[simp] theorem setBiquad_epsr (q : BiquadId) (b : Biquad) : (s.setBiquad q b).epsr = s.epsr := by cases q <;> rfl
@[simp] theorem setBiquad_thr (q : BiquadId) (b : Biquad) : (s.setBiquad q b).thr = s.thr := by cases q <;> rfl
@[simp] theorem setBiquad_lp (q : BiquadId) (b : Biquad) : (s.setBiquad q b).lp = (if q = .lp then b else s.lp) := by cases q <;> rfl
@[simp] theorem setBiquad_hp (q : BiquadId) (b : Biquad) : (s.setBiquad q b).hp = (if q = .hp then b else s.hp) := by cases q <;> rfl
@[simp] theorem setBiquad_iter (q : BiquadId) (b : Biquad) : (s.setBiquad q b).iter = s.iter := by cases q <;> rfl
@[simp] theorem setBiquad_telemEn (q : BiquadId) (b : Biquad) : (s.setBiquad q b).telemEn = s.telemEn := by cases q <;> rfl
@[simp] theorem setBiquad_sched (q : BiquadId) (b : Biquad) : (s.setBiquad q b).sched = s.sched := by cases q <;> rfl
@[simp] theorem setBiquad_ph (q : BiquadId) (b : Biquad) : (s.setBiquad q b).ph = s.ph := by cases q <;> rfl
@[simp] theorem setBiquad_worked (q : BiquadId) (b : Biquad) : (s.setBiquad q b).worked = s.worked := by cases q <;> rfl
@[simp] theorem setBiquad_killPending (q : BiquadId) (b : Biquad) : (s.setBiquad q b).killPending = s.killPending := by cases q <;> rfl
@[simp] theorem setBiquad_token (q : BiquadId) (b : Biquad) : (s.setBiquad q b).token = s.token := by cases q <;> rfl
@[simp] theorem setBiquad_fault (q : BiquadId) (b : Biquad) : (s.setBiquad q b).fault = s.fault := by cases q <;> rfl
@[simp] theorem setBiquad_outOverrun (q : BiquadId) (b : Biquad) : (s.setBiquad q b).outOverrun = s.outOverrun := by cases q <;> rfl
@[simp] theorem setBiquad_starved (q : BiquadId) (b : Biquad) : (s.setBiquad q b).starved = s.starved := by cases q <;> rfl
@[simp] theorem setBiquad_telemetry (q : BiquadId) (b : Biquad) : (s.setBiquad q b).telemetry = s.telemetry := by cases q <;> rfl
@[simp] theorem setBiquad_diag (q : BiquadId) (b : Biquad) : (s.setBiquad q b).diag = s.diag := by cases q <;> rfl
@[simp] theorem setBiquad_ctl (q : BiquadId) (b : Biquad) : (s.setBiquad q b).ctl = s.ctl := by cases q <;> rfl
@[simp] theorem setBiquad_curPort (q : BiquadId) (b : Biquad) : (s.setBiquad q b).curPort = s.curPort := by cases q <;> rfl
@[simp] theorem setBiquad_inbox (q : BiquadId) (b : Biquad) : (s.setBiquad q b).inbox = s.inbox := by cases q <;> rfl
@[simp] theorem setBiquad_turns (q : BiquadId) (b : Biquad) : (s.setBiquad q b).turns = s.turns := by cases q <;> rfl
@[simp] theorem setBiquad_responses (q : BiquadId) (b : Biquad) : (s.setBiquad q b).responses = s.responses := by cases q <;> rfl
@[simp] theorem setBiquad_draws (q : BiquadId) (b : Biquad) : (s.setBiquad q b).draws = s.draws := by cases q <;> rfl

/-! ### `State.afterAdapt`: the weights and the number of the next free value -/

@[simp] theorem afterAdapt_cfg (a : AdaptResult) : (s.afterAdapt a).cfg = s.cfg := rfl
@[simp] theorem afterAdapt_num (a : AdaptResult) : (s.afterAdapt a).num = s.num := num_congr (afterAdapt_cfg s a)
@[simp] theorem afterAdapt_mic (a : AdaptResult) : (s.afterAdapt a).mic = s.mic := rfl
@[simp] theorem afterAdapt_ref (a : AdaptResult) : (s.afterAdapt a).ref = s.ref := rfl
@[simp] theorem afterAdapt_out (a : AdaptResult) : (s.afterAdapt a).out = s.out := rfl
@[simp] theorem afterAdapt_dl (a : AdaptResult) : (s.afterAdapt a).dl = s.dl := rfl
@[simp] theorem afterAdapt_w (a : AdaptResult) : (s.afterAdapt a).w = a.w := rfl
@[simp] theorem afterAdapt_mu (a : AdaptResult) : (s.afterAdapt a).mu = s.mu := rfl
@[simp] theorem afterAdapt_epsr (a : AdaptResult) : (s.afterAdapt a).epsr = s.epsr := rfl
@[simp] theorem afterAdapt_thr (a : AdaptResult) : (s.afterAdapt a).thr = s.thr := rfl
@[simp] theorem afterAdapt_lp (a : AdaptResult) : (s.afterAdapt a).lp = s.lp := rfl
@[simp] theorem afterAdapt_hp (a : AdaptResult) : (s.afterAdapt a).hp = s.hp := rfl
@[simp] theorem afterAdapt_iter (a : AdaptResult) : (s.afterAdapt a).iter = s.iter := rfl
@[simp] theorem afterAdapt_telemEn (a : AdaptResult) : (s.afterAdapt a).telemEn = s.telemEn := rfl
@[simp] theorem afterAdapt_sched (a : AdaptResult) : (s.afterAdapt a).sched = s.sched := rfl
@[simp] theorem afterAdapt_ph (a : AdaptResult) : (s.afterAdapt a).ph = s.ph := rfl
@[simp] theorem afterAdapt_worked (a : AdaptResult) : (s.afterAdapt a).worked = s.worked := rfl
@[simp] theorem afterAdapt_killPending (a : AdaptResult) : (s.afterAdapt a).killPending = s.killPending := rfl
@[simp] theorem afterAdapt_token (a : AdaptResult) : (s.afterAdapt a).token = s.token := rfl
@[simp] theorem afterAdapt_fault (a : AdaptResult) : (s.afterAdapt a).fault = s.fault := rfl
@[simp] theorem afterAdapt_outOverrun (a : AdaptResult) : (s.afterAdapt a).outOverrun = s.outOverrun := rfl
@[simp] theorem afterAdapt_starved (a : AdaptResult) : (s.afterAdapt a).starved = s.starved := rfl
@[simp] theorem afterAdapt_telemetry (a : AdaptResult) : (s.afterAdapt a).telemetry = s.telemetry := rfl
@[simp] theorem afterAdapt_diag (a : AdaptResult) : (s.afterAdapt a).diag = s.diag := rfl
@[simp] theorem afterAdapt_ctl (a : AdaptResult) : (s.afterAdapt a).ctl = s.ctl := rfl
@[simp] theorem afterAdapt_curPort (a : AdaptResult) : (s.afterAdapt a).curPort = s.curPort := rfl
@[simp] theorem afterAdapt_inbox (a : AdaptResult) : (s.afterAdapt a).inbox = s.inbox := rfl
@[simp] theorem afterAdapt_turns (a : AdaptResult) : (s.afterAdapt a).turns = s.turns := rfl
@[simp] theorem afterAdapt_responses (a : AdaptResult) : (s.afterAdapt a).responses = s.responses := rfl
@[simp] theorem afterAdapt_draws (a : AdaptResult) : (s.afterAdapt a).draws = a.draws := rfl

/-! ### `emitTelemetry`: one telemetry word and one free value -/

@[simp] theorem emitTelemetry_cfg : (emitTelemetry s).cfg = s.cfg := rfl
@[simp] theorem emitTelemetry_num : (emitTelemetry s).num = s.num := num_congr (emitTelemetry_cfg s)
@[simp] theorem emitTelemetry_mic : (emitTelemetry s).mic = s.mic := rfl
@[simp] theorem emitTelemetry_ref : (emitTelemetry s).ref = s.ref := rfl
@[simp] theorem emitTelemetry_out : (emitTelemetry s).out = s.out := rfl
@[simp] theorem emitTelemetry_dl : (emitTelemetry s).dl = s.dl := rfl
@[simp] theorem emitTelemetry_w : (emitTelemetry s).w = s.w := rfl
@[simp] theorem emitTelemetry_mu : (emitTelemetry s).mu = s.mu := rfl
@[simp] theorem emitTelemetry_epsr : (emitTelemetry s).epsr = s.epsr := rfl
@[simp] theorem emitTelemetry_thr : (emitTelemetry s).thr = s.thr := rfl
@[simp] theorem emitTelemetry_lp : (emitTelemetry s).lp = s.lp := rfl
@[simp] theorem emitTelemetry_hp : (emitTelemetry s).hp = s.hp := rfl
@[simp] theorem emitTelemetry_iter : (emitTelemetry s).iter = s.iter := rfl
@[simp] theorem emitTelemetry_telemEn : (emitTelemetry s).telemEn = s.telemEn := rfl
@[simp] theorem emitTelemetry_sched : (emitTelemetry s).sched = s.sched := rfl
@[simp] theorem emitTelemetry_ph : (emitTelemetry s).ph = s.ph := rfl
@[simp] theorem emitTelemetry_worked : (emitTelemetry s).worked = s.worked := rfl
@[simp] theorem emitTelemetry_killPending : (emitTelemetry s).killPending = s.killPending := rfl
@[simp] theorem emitTelemetry_token : (emitTelemetry s).token = s.token := rfl
@[simp] theorem emitTelemetry_fault : (emitTelemetry s).fault = s.fault := rfl
@[simp] theorem emitTelemetry_outOverrun : (emitTelemetry s).outOverrun = s.outOverrun := rfl
@[simp] theorem emitTelemetry_starved : (emitTelemetry s).starved = s.starved := rfl
@[simp] theorem emitTelemetry_diag : (emitTelemetry s).diag = s.diag := rfl
@[simp] theorem emitTelemetry_ctl : (emitTelemetry s).ctl = s.ctl := rfl
@[simp] theorem emitTelemetry_curPort : (emitTelemetry s).curPort = s.curPort := rfl
@[simp] theorem emitTelemetry_inbox : (emitTelemetry s).inbox = s.inbox := rfl
@[simp] theorem emitTelemetry_turns : (emitTelemetry s).turns = s.turns := rfl
@[simp] theorem emitTelemetry_responses : (emitTelemetry s).responses = s.responses := rfl
@[simp] theorem emitTelemetry_draws : (emitTelemetry s).draws = s.draws + 1 := rfl

/-! ### `countIteration`: the count, and on the stride a telemetry word -/

@[simp] theorem countIteration_cfg : (countIteration s).cfg = s.cfg := by unfold countIteration; dsimp only; split <;> rfl
@[simp] theorem countIteration_num : (countIteration s).num = s.num := num_congr (countIteration_cfg s)
@[simp] theorem countIteration_mic : (countIteration s).mic = s.mic := by unfold countIteration; dsimp only; split <;> rfl
@[simp] theorem countIteration_ref : (countIteration s).ref = s.ref := by unfold countIteration; dsimp only; split <;> rfl
@[simp] theorem countIteration_out : (countIteration s).out = s.out := by unfold countIteration; dsimp only; split <;> rfl
@[simp] theorem countIteration_dl : (countIteration s).dl = s.dl := by unfold countIteration; dsimp only; split <;> rfl
@[simp] theorem countIteration_w : (countIteration s).w = s.w := by unfold countIteration; dsimp only; split <;> rfl
@[simp] theorem countIteration_mu : (countIteration s).mu = s.mu := by unfold countIteration; dsimp only; split <;> rfl
@[simp] theorem countIteration_epsr : (countIteration s).epsr = s.epsr := by unfold countIteration; dsimp only; split <;> rfl
@[simp] theorem countIteration_thr : (countIteration s).thr = s.thr := by unfold countIteration; dsimp only; split <;> rfl
@[simp] theorem countIteration_lp : (countIteration s).lp = s.lp := by unfold countIteration; dsimp only; split <;> rfl
@[simp] theorem countIteration_hp : (countIteration s).hp = s.hp := by unfold countIteration; dsimp only; split <;> rfl
@[simp] theorem countIteration_iter : (countIteration s).iter = s.iter + 1 := by unfold countIteration; dsimp only; split <;> rfl
@[simp] theorem countIteration_telemEn : (countIteration s).telemEn = s.telemEn := by unfold countIteration; dsimp only; split <;> rfl
@[simp] theorem countIteration_sched : (countIteration s).sched = s.sched := by unfold countIteration; dsimp only; split <;> rfl
@[simp] theorem countIteration_ph : (countIteration s).ph = s.ph := by unfold countIteration; dsimp only; split <;> rfl
@[simp] theorem countIteration_worked : (countIteration s).worked = s.worked := by unfold countIteration; dsimp only; split <;> rfl
@[simp] theorem countIteration_killPending : (countIteration s).killPending = s.killPending := by unfold countIteration; dsimp only; split <;> rfl
@[simp] theorem countIteration_token : (countIteration s).token = s.token := by unfold countIteration; dsimp only; split <;> rfl
@[simp] theorem countIteration_fault : (countIteration s).fault = s.fault := by unfold countIteration; dsimp only; split <;> rfl
@[simp] theorem countIteration_outOverrun : (countIteration s).outOverrun = s.outOverrun := by unfold countIteration; dsimp only; split <;> rfl
@[simp] theorem countIteration_starved : (countIteration s).starved = s.starved := by unfold countIteration; dsimp only; split <;> rfl
@[simp] theorem countIteration_diag : (countIteration s).diag = s.diag := by unfold countIteration; dsimp only; split <;> rfl
@[simp] theorem countIteration_ctl : (countIteration s).ctl = s.ctl := by unfold countIteration; dsimp only; split <;> rfl
@[simp] theorem countIteration_curPort : (countIteration s).curPort = s.curPort := by unfold countIteration; dsimp only; split <;> rfl
@[simp] theorem countIteration_inbox : (countIteration s).inbox = s.inbox := by unfold countIteration; dsimp only; split <;> rfl
@[simp] theorem countIteration_turns : (countIteration s).turns = s.turns := by unfold countIteration; dsimp only; split <;> rfl
@[simp] theorem countIteration_responses : (countIteration s).responses = s.responses := by unfold countIteration; dsimp only; split <;> rfl

/-! ### `pushSilence`: `OUT` alone -/

@[simp] theorem pushSilence_cfg : (pushSilence s).cfg = s.cfg := by unfold pushSilence; split <;> rfl
@[simp] theorem pushSilence_num : (pushSilence s).num = s.num := num_congr (pushSilence_cfg s)
@[simp] theorem pushSilence_mic : (pushSilence s).mic = s.mic := by unfold pushSilence; split <;> rfl
@[simp] theorem pushSilence_ref : (pushSilence s).ref = s.ref := by unfold pushSilence; split <;> rfl
@[simp] theorem pushSilence_dl : (pushSilence s).dl = s.dl := by unfold pushSilence; split <;> rfl
@[simp] theorem pushSilence_w : (pushSilence s).w = s.w := by unfold pushSilence; split <;> rfl
@[simp] theorem pushSilence_mu : (pushSilence s).mu = s.mu := by unfold pushSilence; split <;> rfl
@[simp] theorem pushSilence_epsr : (pushSilence s).epsr = s.epsr := by unfold pushSilence; split <;> rfl
@[simp] theorem pushSilence_thr : (pushSilence s).thr = s.thr := by unfold pushSilence; split <;> rfl
@[simp] theorem pushSilence_lp : (pushSilence s).lp = s.lp := by unfold pushSilence; split <;> rfl
@[simp] theorem pushSilence_hp : (pushSilence s).hp = s.hp := by unfold pushSilence; split <;> rfl
@[simp] theorem pushSilence_iter : (pushSilence s).iter = s.iter := by unfold pushSilence; split <;> rfl
@[simp] theorem pushSilence_telemEn : (pushSilence s).telemEn = s.telemEn := by unfold pushSilence; split <;> rfl
@[simp] theorem pushSilence_sched : (pushSilence s).sched = s.sched := by unfold pushSilence; split <;> rfl
@[simp] theorem pushSilence_ph : (pushSilence s).ph = s.ph := by unfold pushSilence; split <;> rfl
@[simp] theorem pushSilence_worked : (pushSilence s).worked = s.worked := by unfold pushSilence; split <;> rfl
@[simp] theorem pushSilence_killPending : (pushSilence s).killPending = s.killPending := by unfold pushSilence; split <;> rfl
@[simp] theorem pushSilence_token : (pushSilence s).token = s.token := by unfold pushSilence; split <;> rfl
@[simp] theorem pushSilence_fault : (pushSilence s).fault = s.fault := by unfold pushSilence; split <;> rfl
@[simp] theorem pushSilence_outOverrun : (pushSilence s).outOverrun = s.outOverrun := by unfold pushSilence; split <;> rfl
@[simp] theorem pushSilence_starved : (pushSilence s).starved = s.starved := by unfold pushSilence; split <;> rfl
@[simp] theorem pushSilence_telemetry : (pushSilence s).telemetry = s.telemetry := by unfold pushSilence; split <;> rfl
@[simp] theorem pushSilence_diag : (pushSilence s).diag = s.diag := by unfold pushSilence; split <;> rfl
@[simp] theorem pushSilence_ctl : (pushSilence s).ctl = s.ctl := by unfold pushSilence; split <;> rfl
@[simp] theorem pushSilence_curPort : (pushSilence s).curPort = s.curPort := by unfold pushSilence; split <;> rfl
@[simp] theorem pushSilence_inbox : (pushSilence s).inbox = s.inbox := by unfold pushSilence; split <;> rfl
@[simp] theorem pushSilence_turns : (pushSilence s).turns = s.turns := by unfold pushSilence; split <;> rfl
@[simp] theorem pushSilence_responses : (pushSilence s).responses = s.responses := by unfold pushSilence; split <;> rfl
@[simp] theorem pushSilence_draws : (pushSilence s).draws = s.draws := by unfold pushSilence; split <;> rfl

/-! ### `engineInit`: the engine alone -/

@[simp] theorem engineInit_cfg (mu : Sample) : (engineInit mu s).cfg = s.cfg := rfl
@[simp] theorem engineInit_num (mu : Sample) : (engineInit mu s).num = s.num := num_congr (engineInit_cfg s mu)
@[simp] theorem engineInit_mic (mu : Sample) : (engineInit mu s).mic = s.mic := rfl
@[simp] theorem engineInit_ref (mu : Sample) : (engineInit mu s).ref = s.ref := rfl
@[simp] theorem engineInit_out (mu : Sample) : (engineInit mu s).out = s.out := rfl
@[simp] theorem engineInit_dl (mu : Sample) : (engineInit mu s).dl = zeros s.cfg.n := rfl
@[simp] theorem engineInit_w (mu : Sample) : (engineInit mu s).w = Config.w0 s.draws s.cfg.n := rfl
@[simp] theorem engineInit_mu (mu : Sample) : (engineInit mu s).mu = mu := rfl
@[simp] theorem engineInit_epsr (mu : Sample) : (engineInit mu s).epsr = s.cfg.eps := rfl
@[simp] theorem engineInit_thr (mu : Sample) : (engineInit mu s).thr = s.cfg.thr0 := rfl
@[simp] theorem engineInit_lp (mu : Sample) : (engineInit mu s).lp = Biquad.fresh s.cfg.cLp := rfl
@[simp] theorem engineInit_hp (mu : Sample) : (engineInit mu s).hp = Biquad.fresh s.cfg.cHp := rfl
@[simp] theorem engineInit_iter (mu : Sample) : (engineInit mu s).iter = 0 := rfl
@[simp] theorem engineInit_telemEn (mu : Sample) : (engineInit mu s).telemEn = false := rfl
@[simp] theorem engineInit_sched (mu : Sample) : (engineInit mu s).sched = s.sched := rfl
@[simp] theorem engineInit_ph (mu : Sample) : (engineInit mu s).ph = s.ph := rfl
@[simp] theorem engineInit_worked (mu : Sample) : (engineInit mu s).worked = s.worked := rfl
@[simp] theorem engineInit_killPending (mu : Sample) : (engineInit mu s).killPending = s.killPending := rfl
@[simp] theorem engineInit_token (mu : Sample) : (engineInit mu s).token = s.token := rfl
@[simp] theorem engineInit_fault (mu : Sample) : (engineInit mu s).fault = s.fault := rfl
@[simp] theorem engineInit_outOverrun (mu : Sample) : (engineInit mu s).outOverrun = s.outOverrun := rfl
@[simp] theorem engineInit_starved (mu : Sample) : (engineInit mu s).starved = s.starved := rfl
@[simp] theorem engineInit_telemetry (mu : Sample) : (engineInit mu s).telemetry = s.telemetry := rfl
@[simp] theorem engineInit_diag (mu : Sample) : (engineInit mu s).diag = s.diag := rfl
@[simp] theorem engineInit_ctl (mu : Sample) : (engineInit mu s).ctl = s.ctl := rfl
@[simp] theorem engineInit_curPort (mu : Sample) : (engineInit mu s).curPort = s.curPort := rfl
@[simp] theorem engineInit_inbox (mu : Sample) : (engineInit mu s).inbox = s.inbox := rfl
@[simp] theorem engineInit_turns (mu : Sample) : (engineInit mu s).turns = s.turns := rfl
@[simp] theorem engineInit_responses (mu : Sample) : (engineInit mu s).responses = s.responses := rfl
@[simp] theorem engineInit_draws (mu : Sample) : (engineInit mu s).draws = s.draws + 1 := rfl

end Sys2Proof.Machine
end

