-- ==== Sys2Proof/Laws/Ops.lean ====
section
/-! SUPPORT. What each shared operation can do, said once: the port check, push and pop, storage reads, the commands. -/

namespace Sys2Proof.Machine

/-! ### The port check -/

theorem gate_always {acc : Port → Access} {s : State} {run : StepOutcome} (h : acc s.curPort = .always) :
    gate acc s run = run := by simp [gate, h]

theorem gate_never {acc : Port → Access} {s : State} {run : StepOutcome} (h : acc s.curPort = .never) :
    gate acc s run = .next (s.reply .notOwner 0 0) := by simp [gate, h]

theorem gate_held {acc : Port → Access} {s : State} {run : StepOutcome} (h : acc s.curPort ≠ .never)
    (hs : s.sched.held = true) : gate acc s run = run := by
  unfold gate
  cases ha : acc s.curPort <;> simp_all
  cases hc : s.sched <;> simp_all [Sched.held]

theorem gate_busy {acc : Port → Access} {s : State} {run : StepOutcome} (h : acc s.curPort = .held)
    (hs : s.sched = .running ∨ s.sched = .stopRequested) : gate acc s run = .next (s.reply .busy 0 0) := by
  rcases hs with hs | hs <;> simp [gate, h, hs]

theorem gate_faulted {acc : Port → Access} {s : State} {run : StepOutcome} (h : acc s.curPort = .held)
    (hs : s.sched = .faulted) : gate acc s run = .next (s.reply .faulted 0 0) := by simp [gate, h, hs]

/-- If the port check answers a state, the operation ran and gave it, with the engine held if the table asks for it, or the
answer is a refusal that changes nothing else. -/
theorem gate_cases {acc : Port → Access} {s t : State} {run : StepOutcome} (h : gate acc s run = .next t) :
    (run = .next t ∧ acc s.curPort ≠ .never ∧ (acc s.curPort = .held → s.sched.held = true)) ∨
      (∃ st, t = s.reply st 0 0 ∧ (st = .notOwner ∨ st = .busy ∨ st = .faulted)) := by
  unfold gate at h
  split at h
  · cases h; exact .inr ⟨_, rfl, .inl rfl⟩
  · exact .inl ⟨h, by simp_all, by simp_all⟩
  · split at h
    all_goals first
      | (cases h; exact .inr ⟨_, rfl, .inr (.inl rfl)⟩)
      | (cases h; exact .inr ⟨_, rfl, .inr (.inr rfl)⟩)
      | exact .inl ⟨h, by simp_all, by simp_all [Sched.held]⟩

/-! ### FIFO -/

theorem push_eq_some {q q' : Fifo} {v : Sample} (h : q.push v = some q') :
    q.buf.length ≠ q.cap ∧ q' = { q with buf := q.buf ++ [v] } := by
  unfold Fifo.push at h; split at h
  · cases h
  · exact ⟨‹_›, by simpa using h.symm⟩

theorem push_of_lt {q : Fifo} (v : Sample) (h : q.buf.length < q.cap) : q.push v = some { q with buf := q.buf ++ [v] } := by
  simp [Fifo.push, Nat.ne_of_lt h]

theorem pop_eq_some {q q' : Fifo} {v : Sample} (h : q.pop = some (v, q')) :
    q.buf = v :: q'.buf ∧ q' = { q with buf := q'.buf } := by
  unfold Fifo.pop at h; split at h
  · cases h
  · rename_i hb; simp at h; obtain ⟨rfl, rfl⟩ := h; exact ⟨hb, rfl⟩

theorem pop_of_cons {q : Fifo} {v : Sample} {rest : List Sample} (h : q.buf = v :: rest) :
    q.pop = some (v, { q with buf := rest }) := by simp [Fifo.pop, h]

theorem setFifo_fifo (s : State) (q : FifoId) : s.setFifo q (s.fifo q) = s := by cases q <;> rfl

/-- `PUSH` answers `Full` and leaves the FIFO, or appends and answers OK. -/
theorem pushCommand_cases (q : FifoId) (v : Sample) (s : State) :
    pushCommand q v s = s.reply .full 0 0 ∨
      (s.fifo q).buf.length ≠ (s.fifo q).cap ∧
        pushCommand q v s = (s.setFifo q { s.fifo q with buf := (s.fifo q).buf ++ [v] }).reply .ok 0 0 := by
  unfold pushCommand
  split
  · exact .inl rfl
  · obtain ⟨hn, rfl⟩ := push_eq_some ‹_›; exact .inr ⟨hn, rfl⟩

/-- `POP` answers `Empty` and leaves the FIFO, or removes the oldest sample and answers it. -/
theorem popCommand_cases (q : FifoId) (s : State) :
    popCommand q s = s.reply .empty 0 0 ∨
      ∃ v rest, (s.fifo q).buf = v :: rest ∧ popCommand q s = (s.setFifo q { s.fifo q with buf := rest }).reply .ok 0 v := by
  unfold popCommand
  split
  · exact .inl rfl
  · rename_i v f hp
    obtain ⟨hb, hc⟩ := pop_eq_some hp
    exact .inr ⟨v, f.buf, hb, congrArg (fun g => (s.setFifo q g).reply .ok 0 v) hc⟩

/-! ### Storage -/

@[simp] theorem shiftIn_length (dl : List Sample) (v : Sample) : (shiftIn dl v).length = dl.length - 1 + 1 := by
  simp [shiftIn]

@[simp] theorem zeros_length (n : Nat) : (zeros n).length = n := by simp [zeros]

/-- A storage read that answers a state changes nothing but the responses. -/
theorem readStorage_cases {n i : Nat} {store : List Sample} {s t : State} (h : readStorage n store i s = .next t) :
    t = s.reply .badIndex 0 0 ∨ ∃ v, store[i]? = some v ∧ t = s.reply .ok 0 v := by
  unfold readStorage at h; split at h
  · cases h; exact .inl rfl
  · split at h
    · cases h; exact .inr ⟨_, ‹_›, rfl⟩
    · cases h

/-! ### Run control and registers -/

/-- Everything `START` can do. -/
theorem startCommand_cases (s : State) :
    (∃ st, startCommand s = s.reply st 0 0 ∧ st ≠ .ok) ∨
      s.sched.held = true ∧ startCommand s =
        { s with sched := .running, ph := .check, worked := false, killPending := false, token := false }.reply .ok 0 0 := by
  unfold startCommand
  cases hs : s.sched
  · exact .inr ⟨rfl, rfl⟩
  · exact .inl ⟨_, rfl, by decide⟩
  · exact .inl ⟨_, rfl, by decide⟩
  · exact .inr ⟨rfl, rfl⟩
  · exact .inl ⟨_, rfl, by decide⟩

/-- Everything `STOP` can do when it is issued. -/
theorem stopCommand_cases (s : State) :
    (∃ st, stopCommand s = s.reply st 0 0) ∨
      s.sched = .running ∧ stopCommand s = { s with killPending := true, sched := .stopRequested, ctl := .waitStop } ∨
      s.sched = .stopRequested ∧ stopCommand s = { s with ctl := .waitStop } := by
  unfold stopCommand
  cases hs : s.sched
  · exact .inl ⟨_, rfl⟩
  · exact .inr (.inl ⟨rfl, rfl⟩)
  · exact .inr (.inr ⟨rfl, rfl⟩)
  · exact .inl ⟨_, rfl⟩
  · exact .inl ⟨_, rfl⟩

/-- `CSRR` changes nothing but the responses. -/
theorem csrrCommand_cases (n : Nat) (s : State) : ∃ st v, csrrCommand n s = s.reply st 0 v := by
  unfold csrrCommand; split <;> exact ⟨_, _, rfl⟩

/-- Everything `CSRW` can do. -/
theorem csrwCommand_cases (n : Nat) (v : BitVec 32) (s : State) :
    csrwCommand n v s = { s with telemEn := v.getLsbD 0 }.reply .ok 0 0 ∨
      csrwCommand n v s = { s with thr := v }.reply .ok 0 0 ∨ csrwCommand n v s = s.reply .badIndex 0 0 := by
  unfold csrwCommand; split
  · exact .inl rfl
  · exact .inr (.inl rfl)
  · exact .inr (.inr rfl)

end Sys2Proof.Machine
end

