-- ==== Sys2Proof/Laws/Engine.lean ====
section
/-! SUPPORT. What `tick`, `adapt` and one iteration can do, said once. -/

namespace Sys2Proof.Machine

@[simp] theorem tick_coefs (u : Numerics) (f : Biquad) (x : Sample) : (tick u f x).2.c = f.c := rfl

@[simp] theorem fresh_coefs (c : Coefs) : (Biquad.fresh c).c = c := rfl

/-- Everything `BQINIT` can do. -/
theorem bqinitCommand_cases (f : BiquadId) (m : Mode) (x : Sample) (s : State) :
    (∃ st, bqinitCommand f m x s = s.reply st 0 0) ∨
      ∃ c, coef s.cfg m x = some c ∧ bqinitCommand f m x s = (s.setBiquad f (Biquad.fresh c)).reply .ok 0 0 := by
  unfold bqinitCommand
  split
  · exact .inl ⟨_, rfl⟩
  · split
    · exact .inr ⟨_, ‹_›, rfl⟩
    · exact .inl ⟨_, rfl⟩

section Adapt

variable (u : Numerics) (mu epsr thr : Sample) (w win : List Sample) (target : Sample) (k : Nat)

@[simp] theorem adaptTerms_dw_length : (adaptTerms u mu epsr w win target).dw.length = win.length := by simp [adaptTerms]

@[simp] theorem adapt_output :
    (adapt u mu epsr thr w win target k).output = (adaptTerms u mu epsr w win target).output := rfl

/-- `adapt` keeps the number of weights when the window fits. -/
theorem adapt_w_length (h : win.length = w.length) : (adapt u mu epsr thr w win target k).w.length = w.length := by
  have hd := adaptTerms_dw_length u mu epsr w win target
  unfold adapt
  dsimp only
  generalize (if (adaptTerms u mu epsr w win target).undetermined u = true then Config.drawApply k else _) = b
  cases b
  · rfl
  · simp only [if_true, List.length_zipWith, hd, h, Nat.min_self]

/-- `adapt` where no compared product is a NaN: the maximum, the strict gate, no free value (R175, R177). -/
theorem adapt_of_no_nan (h : (adaptTerms u mu epsr w win target).undetermined u = false) :
    let a := adaptTerms u mu epsr w win target
    let applied := u.flt (u.max a.t) thr
    let w' := if applied then List.zipWith u.fadd w a.dw else w
    adapt u mu epsr thr w win target k =
      { output := a.output, novelty := u.max a.t, w := w', applied := applied, nan := applied && w'.any u.isnan
        draws := k } := by
  simp [adapt, h]

/-- `adapt` where some compared product is a NaN: the gate's outcome and the novelty are free values (R179). -/
theorem adapt_of_nan (h : (adaptTerms u mu epsr w win target).undetermined u = true) :
    let a := adaptTerms u mu epsr w win target
    let w' := if Config.drawApply k then List.zipWith u.fadd w a.dw else w
    adapt u mu epsr thr w win target k =
      { output := a.output, novelty := Config.drawNovelty k, w := w', applied := Config.drawApply k
        nan := Config.drawApply k && w'.any u.isnan, draws := k + 1 } := by
  simp [adapt, h]

/-- The weights that `adapt` leaves without raising the fault hold a NaN only if they did before (R178). -/
theorem adapt_no_nan_weight (hn : (adapt u mu epsr thr w win target k).nan = false)
    (hw : ∀ x ∈ w, u.isnan x = false) : ∀ x ∈ (adapt u mu epsr thr w win target k).w, u.isnan x = false := by
  revert hn
  unfold adapt
  dsimp only
  generalize (if (adaptTerms u mu epsr w win target).undetermined u = true then Config.drawApply k
    else u.flt (if (adaptTerms u mu epsr w win target).undetermined u = true then Config.drawNovelty k
      else u.max (adaptTerms u mu epsr w win target).t) thr) = b
  cases b
  · intro _; simpa using hw
  · intro hn; simpa using hn

end Adapt

/-- `ADAPT` after the port check, when it answers a state: the registers after `adapt`, with the fault entered if it was
raised. -/
theorem adaptCommand_cases {target : Sample} {s t : State} (h : adaptCommand target s = .next t) :
    s.windowFits = true ∧
      ((s.adaptOn target).nan = true ∧ t = (s.afterAdapt (s.adaptOn target)).raiseNaNWeight.reply .nanWeight 0 0 ∨
        (s.adaptOn target).nan = false ∧
          t = (s.afterAdapt (s.adaptOn target)).reply .ok (s.adaptOn target).novelty (s.adaptOn target).output) := by
  unfold adaptCommand at h
  split at h
  · rename_i hw
    refine ⟨hw, ?_⟩
    cases hn : (s.adaptOn target).nan <;> simp [hn] at h <;> simp [← h]
  · cases h

/-- The state after steps 1 to 3 of an iteration on the popped samples `m` and `r` (R203). -/
def afterStepThree (m r : Sample) (ms rs : List Sample) (s : State) : State :=
  let s1 := { s with mic := { s.mic with buf := ms }, ref := { s.ref with buf := rs }, dl := shiftIn s.dl r }
  s1.afterAdapt (s1.adaptOn m)

/-- The result of `adapt` in that iteration. -/
def adaptOfIteration (m r : Sample) (s : State) : AdaptResult :=
  adapt s.num s.mu s.epsr s.thr s.w (shiftIn s.dl r) m s.draws

/-- The state after step 5 of an iteration, its filtered sample pushed (R203). -/
def afterStepFive (m r : Sample) (ms rs : List Sample) (s : State) : State :=
  let c := cascade s.num s.lp s.hp (s.num.fsub m (adaptOfIteration m r s).output)
  { afterStepThree m r ms rs s with
    lp := c.2.1, hp := c.2.2, out := { s.out with buf := s.out.buf ++ [c.1] } }

/-- The loop condition names the two oldest samples and the room in `OUT` (R202). -/
theorem cond_iff {s : State} : s.cond = true ↔
    (∃ m ms, s.mic.buf = m :: ms) ∧ (∃ r rs, s.ref.buf = r :: rs) ∧ s.out.buf.length < s.out.cap := by
  unfold State.cond
  cases hm : s.mic.buf <;> cases hr : s.ref.buf <;> simp

/-- One iteration without work. -/
theorem iterate_noWork {s : State} (h : s.cond = false) : iterate s = .noWork := by simp [iterate, h]

/-- One iteration with work, said once: the window does not fit, the fault is raised after step 3, or the filtered sample is
pushed and the iteration counted. The push never fails (R203, R204, R213). -/
theorem iterate_of_work {s : State} {m r : Sample} {ms rs : List Sample} (hm : s.mic.buf = m :: ms)
    (hr : s.ref.buf = r :: rs) (ho : s.out.buf.length < s.out.cap) :
    iterate s =
      if (shiftIn s.dl r).length = s.w.length then
        if (adaptOfIteration m r s).nan then .nanWeight (afterStepThree m r ms rs s).raiseNaNWeight
        else .ok (cascade s.num s.lp s.hp (s.num.fsub m (adaptOfIteration m r s).output)).1 (adaptOfIteration m r s).novelty
          (countIteration (afterStepFive m r ms rs s))
      else .mismatch := by
  have hc : s.cond = true := cond_iff.2 ⟨⟨m, ms, hm⟩, ⟨r, rs, hr⟩, ho⟩
  simp only [iterate, hc, pop_of_cons hm, pop_of_cons hr, if_true, State.windowFits, decide_eq_true_eq]
  split
  · split
    · rename_i hn; rw [if_pos (by exact hn)]; rfl
    · rename_i hn
      rw [if_neg (by exact hn)]
      unfold finishIteration
      dsimp only
      rw [push_of_lt]
      · rfl
      · exact ho
  · rfl

/-- Everything one iteration can come to. -/
theorem iterate_cases (s : State) :
    iterate s = .noWork ∧ s.cond = false ∨
      ∃ m r ms rs, s.mic.buf = m :: ms ∧ s.ref.buf = r :: rs ∧ s.out.buf.length < s.out.cap ∧
        ((shiftIn s.dl r).length ≠ s.w.length ∧ iterate s = .mismatch ∨
          (shiftIn s.dl r).length = s.w.length ∧ (adaptOfIteration m r s).nan = true ∧
            iterate s = .nanWeight (afterStepThree m r ms rs s).raiseNaNWeight ∨
          (shiftIn s.dl r).length = s.w.length ∧ (adaptOfIteration m r s).nan = false ∧
            iterate s = .ok (cascade s.num s.lp s.hp (s.num.fsub m (adaptOfIteration m r s).output)).1
              (adaptOfIteration m r s).novelty (countIteration (afterStepFive m r ms rs s))) := by
  cases hc : s.cond
  · exact .inl ⟨iterate_noWork hc, rfl⟩
  · obtain ⟨⟨m, ms, hm⟩, ⟨r, rs, hr⟩, ho⟩ := cond_iff.1 hc
    refine .inr ⟨m, r, ms, rs, hm, hr, ho, ?_⟩
    rw [iterate_of_work hm hr ho]
    by_cases hl : (shiftIn s.dl r).length = s.w.length
    · cases hn : (adaptOfIteration m r s).nan
      · exact .inr (.inr ⟨hl, rfl, by simp only [if_pos hl]; rfl⟩)
      · exact .inr (.inl ⟨hl, rfl, by simp only [if_pos hl]; rfl⟩)
    · exact .inl ⟨hl, by simp only [if_neg hl]⟩

/-- One push of silence, when there is room. -/
theorem pushSilence_of_lt {s : State} (h : s.out.buf.length < s.out.cap) :
    pushSilence s = { s with out := { s.out with buf := s.out.buf ++ [silence] } } := by
  simp only [pushSilence, push_of_lt silence h]

end Sys2Proof.Machine
end

