-- ==== Sys2Proof/Laws/Exec.lean ====
section
/-! SUPPORT. Everything an operation can do and everything a step can do, said once (`exec_effect`, `step_cases`): a proof
about all operations or all steps takes these cases and unfolds no meaning. -/

namespace Sys2Proof.Machine

/-- `A_CTL` issued the command and holds the engine. -/
abbrev Direct (s : State) : Prop := s.curPort = .ctl ∧ s.sched.held = true

/-- What operation `i` can make of state `s` when it answers a state. -/
inductive ExecEffect (s : State) : Instr → State → Prop where
  /-- a response and nothing else: a query, a read, a condition, a refusal -/
  | reply (i : Instr) (st : Status) (d1 d0 : BitVec 32) : ExecEffect s i (s.reply st d1 d0)
  | push (i : Instr) (q : FifoId) (v : Sample) (acc : producerOf q s.curPort ≠ .never)
      (held : producerOf q s.curPort = .held → s.sched.held = true) (room : (s.fifo q).buf.length ≠ (s.fifo q).cap) :
      ExecEffect s i ((s.setFifo q { s.fifo q with buf := (s.fifo q).buf ++ [v] }).reply .ok 0 0)
  | pop (i : Instr) (q : FifoId) (v : Sample) (rest : List Sample) (acc : consumerOf q s.curPort ≠ .never)
      (held : consumerOf q s.curPort = .held → s.sched.held = true) (some : (s.fifo q).buf = v :: rest) :
      ExecEffect s i ((s.setFifo q { s.fifo q with buf := rest }).reply .ok 0 v)
  | bqinitLp (m : Mode) (x : Sample) (c : Coefs) (d : Direct s) :
      ExecEffect s (.bqinitLp m x) ((s.setBiquad .lp (Biquad.fresh c)).reply .ok 0 0)
  | bqinitHp (m : Mode) (x : Sample) (c : Coefs) (d : Direct s) :
      ExecEffect s (.bqinitHp m x) ((s.setBiquad .hp (Biquad.fresh c)).reply .ok 0 0)
  | bqtick (i : Instr) (f : BiquadId) (x : Sample) (d : Direct s) :
      ExecEffect s i ((s.setBiquad f (tick s.num (s.biquad f) x).2).reply .ok 0 (tick s.num (s.biquad f) x).1)
  | casc (x : Sample) (d : Direct s) :
      ExecEffect s (.casc x)
        ({ s with lp := (cascade s.num s.lp s.hp x).2.1, hp := (cascade s.num s.lp s.hp x).2.2 }.reply .ok 0
          (cascade s.num s.lp s.hp x).1)
  | dlpush (v : Sample) (d : Direct s) : ExecEffect s (.dlpush v) ({ s with dl := shiftIn s.dl v }.reply .ok 0 0)
  | dlinit (d : Direct s) : ExecEffect s .dlinit ({ s with dl := zeros s.cfg.n }.reply .ok 0 0)
  | adapt (x : Sample) (d : Direct s) (fits : s.dl.length = s.w.length) (ok : (s.adaptOn x).nan = false) :
      ExecEffect s (.adapt x) ((s.afterAdapt (s.adaptOn x)).reply .ok (s.adaptOn x).novelty (s.adaptOn x).output)
  | adaptFault (x : Sample) (d : Direct s) (fits : s.dl.length = s.w.length) (nan : (s.adaptOn x).nan = true) :
      ExecEffect s (.adapt x) ((s.afterAdapt (s.adaptOn x)).raiseNaNWeight.reply .nanWeight 0 0)
  | enginit (mu : Sample) (d : Direct s) : ExecEffect s (.enginit mu) ((engineInit mu s).reply .ok 0 0)
  | iterOk (d : Direct s) (filtered novelty : Sample) (t : State) (h : iterate s = .ok filtered novelty t) :
      ExecEffect s .iter (t.reply .ok novelty filtered)
  | iterFault (d : Direct s) (t : State) (h : iterate s = .nanWeight t) : ExecEffect s .iter (t.reply .nanWeight 0 0)
  | runonce (d : Direct s) (t : State) (h : runOnceStep { phase := .drain, n := 0, z := 0 } s = .next t) :
      ExecEffect s .runonce t
  | start (ctl : s.curPort = .ctl) (held : s.sched.held = true) :
      ExecEffect s .start
        ({ s with sched := .running, ph := .check, worked := false, killPending := false, token := false }.reply .ok 0 0)
  | stop (ctl : s.curPort = .ctl) (running : s.sched = .running) :
      ExecEffect s .stop { s with killPending := true, sched := .stopRequested, ctl := .waitStop }
  | stopAgain (ctl : s.curPort = .ctl) (requested : s.sched = .stopRequested) :
      ExecEffect s .stop { s with ctl := .waitStop }
  | unpark (mic : s.curPort = .mic) : ExecEffect s .unpark (unparkCommand s)
  | telemEn (n : Nat) (v : BitVec 32) (d : Direct s) :
      ExecEffect s (.csrw n v) ({ s with telemEn := v.getLsbD 0 }.reply .ok 0 0)
  | thr (n : Nat) (v : BitVec 32) (d : Direct s) : ExecEffect s (.csrw n v) ({ s with thr := v }.reply .ok 0 0)

/-- The port check on an operation of the engine: it ran under direct access, or the answer is a refusal. -/
theorem engineOnly_cases {s t : State} {run : StepOutcome} (h : gate engineOnly s run = .next t) :
    (run = .next t ∧ Direct s) ∨ ∃ st, t = s.reply st 0 0 := by
  rcases gate_cases h with ⟨hr, hn, hh⟩ | ⟨st, ht, -⟩
  · have hp : s.curPort = .ctl := by
      by_contra hne; exact hn (by simp [engineOnly, hne])
    exact .inl ⟨hr, hp, hh (by simp [engineOnly, hp])⟩
  · exact .inr ⟨st, ht⟩

/-- The port check on an operation of the controller. -/
theorem controller_cases {s t : State} {run : StepOutcome} (h : gate controller s run = .next t) :
    (run = .next t ∧ s.curPort = .ctl) ∨ ∃ st, t = s.reply st 0 0 := by
  rcases gate_cases h with ⟨hr, hn, -⟩ | ⟨st, ht, -⟩
  · refine .inl ⟨hr, ?_⟩
    by_contra hne; exact hn (by simp [controller, hne])
  · exact .inr ⟨st, ht⟩

theorem push_effect {i : Instr} {q : FifoId} {v : Sample} {s t : State}
    (h : gate (producerOf q) s (.next (pushCommand q v s)) = .next t) : ExecEffect s i t := by
  rcases gate_cases h with ⟨hr, hn, hh⟩ | ⟨st, rfl, -⟩
  · cases hr
    rcases pushCommand_cases q v s with he | ⟨hroom, he⟩ <;> rw [he]
    · exact .reply ..
    · exact .push i q v hn hh hroom
  · exact .reply ..

theorem pop_effect {i : Instr} {q : FifoId} {s t : State}
    (h : gate (consumerOf q) s (.next (popCommand q s)) = .next t) : ExecEffect s i t := by
  rcases gate_cases h with ⟨hr, hn, hh⟩ | ⟨st, rfl, -⟩
  · cases hr
    rcases popCommand_cases q s with he | ⟨v, rest, hb, he⟩ <;> rw [he]
    · exact .reply ..
    · exact .pop i q v rest hn hh hb
  · exact .reply ..

theorem query_effect {i : Instr} {acc : Port → Access} {s t : State} {st : Status} {d1 d0 : BitVec 32}
    (h : gate acc s (.next (s.reply st d1 d0)) = .next t) : ExecEffect s i t := by
  rcases gate_cases h with ⟨hr, -⟩ | ⟨st, rfl, -⟩
  · cases hr; exact .reply ..
  · exact .reply ..

theorem read_effect {i : Instr} {n j : Nat} {store : List Sample} {s t : State}
    (h : gate engineOnly s (readStorage n store j s) = .next t) : ExecEffect s i t := by
  rcases engineOnly_cases h with ⟨hr, -⟩ | ⟨st, rfl⟩
  · rcases readStorage_cases hr with rfl | ⟨v, -, rfl⟩ <;> exact .reply ..
  · exact .reply ..

theorem iterCommand_effect {s t : State} (d : Direct s) (h : iterCommand s = .next t) : ExecEffect s .iter t := by
  unfold iterCommand at h
  rcases iterate_cases s with ⟨he, -⟩ | ⟨m, r, ms, rs, -, -, -, ⟨-, he⟩ | ⟨-, -, he⟩ | ⟨-, -, he⟩⟩
  all_goals simp only [he] at h; cases h
  · exact .reply ..
  · exact .iterFault d _ he
  · exact .iterOk d _ _ _ he

/-- Everything an operation can do when it answers a state. -/
theorem exec_effect {i : Instr} {s t : State} (h : exec i s = .next t) : ExecEffect s i t := by
  cases i with
  | pushMic v => exact push_effect (q := .mic) h
  | pushRef v => exact push_effect (q := .ref) h
  | pushOut v => exact push_effect (q := .out) h
  | popMic => exact pop_effect (q := .mic) h
  | popRef => exact pop_effect (q := .ref) h
  | popOut => exact pop_effect (q := .out) h
  | lenMic | lenRef | lenOut | capMic | capRef | capOut => exact query_effect h
  | isemptyMic | isemptyRef | isemptyOut | isfullMic | isfullRef | isfullOut => exact query_effect h
  | bqinitLp m x =>
    rcases engineOnly_cases h with ⟨hr, d⟩ | ⟨st, rfl⟩
    · cases hr
      rcases bqinitCommand_cases .lp m x s with ⟨st, he⟩ | ⟨c, -, he⟩ <;> rw [he]
      · exact .reply ..
      · exact .bqinitLp m x c d
    · exact .reply ..
  | bqinitHp m x =>
    rcases engineOnly_cases h with ⟨hr, d⟩ | ⟨st, rfl⟩
    · cases hr
      rcases bqinitCommand_cases .hp m x s with ⟨st, he⟩ | ⟨c, -, he⟩ <;> rw [he]
      · exact .reply ..
      · exact .bqinitHp m x c d
    · exact .reply ..
  | bqtickLp x =>
    rcases engineOnly_cases h with ⟨hr, d⟩ | ⟨st, rfl⟩
    · cases hr; exact .bqtick _ .lp x d
    · exact .reply ..
  | bqtickHp x =>
    rcases engineOnly_cases h with ⟨hr, d⟩ | ⟨st, rfl⟩
    · cases hr; exact .bqtick _ .hp x d
    · exact .reply ..
  | casc x =>
    rcases engineOnly_cases h with ⟨hr, d⟩ | ⟨st, rfl⟩
    · cases hr; exact .casc x d
    · exact .reply ..
  | dlpush v =>
    rcases engineOnly_cases h with ⟨hr, d⟩ | ⟨st, rfl⟩
    · cases hr; exact .dlpush v d
    · exact .reply ..
  | dlrd j => exact read_effect h
  | dlinit =>
    rcases engineOnly_cases h with ⟨hr, d⟩ | ⟨st, rfl⟩
    · cases hr; exact .dlinit d
    · exact .reply ..
  | adapt x =>
    rcases engineOnly_cases h with ⟨hr, d⟩ | ⟨st, rfl⟩
    · obtain ⟨hw, ⟨hn, rfl⟩ | ⟨hn, rfl⟩⟩ := adaptCommand_cases hr
      · exact .adaptFault x d (by simpa [State.windowFits] using hw) hn
      · exact .adapt x d (by simpa [State.windowFits] using hw) hn
    · exact .reply ..
  | wrd j => exact read_effect h
  | enginit mu =>
    rcases engineOnly_cases h with ⟨hr, d⟩ | ⟨st, rfl⟩
    · cases hr; exact .enginit mu d
    · exact .reply ..
  | iter =>
    rcases engineOnly_cases h with ⟨hr, d⟩ | ⟨st, rfl⟩
    · exact iterCommand_effect d hr
    · exact .reply ..
  | runonce =>
    rcases engineOnly_cases h with ⟨hr, d⟩ | ⟨st, rfl⟩
    · exact .runonce d t hr
    · exact .reply ..
  | start =>
    rcases controller_cases h with ⟨hr, hp⟩ | ⟨st, rfl⟩
    · cases hr
      rcases startCommand_cases s with ⟨st, he, -⟩ | ⟨hs, he⟩ <;> rw [he]
      · exact .reply ..
      · exact .start hp hs
    · exact .reply ..
  | stop =>
    rcases controller_cases h with ⟨hr, hp⟩ | ⟨st, rfl⟩
    · cases hr
      rcases stopCommand_cases s with ⟨st, he⟩ | ⟨hs, he⟩ | ⟨hs, he⟩ <;> rw [he]
      · exact .reply ..
      · exact .stop hp hs
      · exact .stopAgain hp hs
    · exact .reply ..
  | unpark =>
    rcases gate_cases h with ⟨hr, hn, -⟩ | ⟨st, rfl, -⟩
    · cases hr
      refine .unpark ?_
      by_contra hne; exact hn (by simp [onlyOn, hne])
    · exact .reply ..
  | csrr n =>
    rcases controller_cases h with ⟨hr, hp⟩ | ⟨st, rfl⟩
    · cases hr
      obtain ⟨st, v, he⟩ := csrrCommand_cases n s
      rw [he]; exact .reply ..
    · exact .reply ..
  | csrw n v =>
    rcases engineOnly_cases h with ⟨hr, d⟩ | ⟨st, rfl⟩
    · cases hr
      rcases csrwCommand_cases n v s with he | he | he <;> rw [he]
      · exact .telemEn n v d
      · exact .thr n v d
      · exact .reply ..
    · exact .reply ..

/-- Everything one atomic step of a `RUNONCE` can do (R206). -/
theorem runOnceStep_cases {r : RunOnce} {s t : State} (h : runOnceStep r s = .next t) :
    (∃ f v t', r.phase = .drain ∧ iterate s = .ok f v t' ∧ t = { t' with ctl := .runOnce { r with n := r.n + 1 } }) ∨
    (r.phase = .drain ∧ iterate s = .noWork ∧ t = { s with ctl := .runOnce { r with phase := .lowtest } }) ∨
    (∃ t', r.phase = .drain ∧ iterate s = .nanWeight t' ∧ t = finishRunOnce .nanWeight 0 0 t') ∨
    (r.phase = .lowtest ∧ s.lowWater = true ∧ t = { s.report .starved with ctl := .runOnce { r with phase := .refill } }) ∨
    (r.phase = .refill ∧ s.out.buf.length < s.cfg.refill ∧
      t = { pushSilence s with ctl := .runOnce { r with z := r.z + 1 } }) ∨
    (t = finishRunOnce .ok r.z r.n s) := by
  unfold runOnceStep at h
  split at h
  · rename_i hp
    rcases iterate_cases s with ⟨he, -⟩ | ⟨m, x, ms, rs, -, -, -, ⟨-, he⟩ | ⟨-, -, he⟩ | ⟨-, -, he⟩⟩
    all_goals simp only [he] at h; cases h
    · exact .inr (.inl ⟨hp, he, rfl⟩)
    · exact .inr (.inr (.inl ⟨_, hp, he, rfl⟩))
    · exact .inl ⟨_, _, _, hp, he, rfl⟩
  · rename_i hp; cases h; split
    · exact .inr (.inr (.inr (.inl ⟨hp, ‹_›, rfl⟩)))
    · exact .inr (.inr (.inr (.inr (.inr rfl))))
  · rename_i hp; cases h; split
    · exact .inr (.inr (.inr (.inr (.inl ⟨hp, ‹_›, rfl⟩))))
    · exact .inr (.inr (.inr (.inr (.inr rfl))))

/-- Everything one step of the engine thread can do, the thread running (R224 to R229, R231). -/
theorem engineStep_cases {s t : State} (h : engineStep s = .next t) :
    (s.sched.threadRuns = false ∧ t = s) ∨
    s.sched.threadRuns = true ∧
      ((s.ph = .check ∧ t = checkStep s) ∨
      (∃ f v t', s.ph = .drain ∧ iterate s = .ok f v t' ∧ t = { t' with worked := true }) ∨
      (s.ph = .drain ∧ iterate s = .noWork ∧ t = { s with ph := .lowtest }) ∨
      (∃ t', s.ph = .drain ∧ iterate s = .nanWeight t' ∧ t = panicStop t') ∨
      (s.ph = .lowtest ∧ t = lowtestStep s) ∨
      (s.ph = .refill ∧ t = refillStep s) ∨
      (s.ph = .decide ∧ t = decideStep s) ∨
      (s.ph = .parked ∧ t = wakeStep s)) := by
  unfold engineStep at h
  split at h
  · rename_i hr
    refine .inr ⟨hr, ?_⟩
    split at h
    · cases h; simp_all
    · rename_i hp
      unfold drainStep at h
      rcases iterate_cases s with ⟨he, -⟩ | ⟨m, x, ms, rs, -, -, -, ⟨-, he⟩ | ⟨-, -, he⟩ | ⟨-, -, he⟩⟩
      all_goals simp only [he] at h; cases h
      · exact .inr (.inr (.inl ⟨hp, he, rfl⟩))
      · exact .inr (.inr (.inr (.inl ⟨_, hp, he, rfl⟩)))
      · exact .inr (.inl ⟨_, _, _, hp, he, rfl⟩)
    · cases h; simp_all
    · cases h; simp_all
    · cases h; simp_all
    · cases h; simp_all
  · rename_i hr; cases h; exact .inl ⟨by simpa using hr, rfl⟩

/-- The state when a turn begins: the schedule without that turn. -/
def State.atTurn (s : State) : State := { s with turns := s.turns.tail }

/-- What a turn that issues a command word does. -/
theorem issueNext_cases {p : Port} {s t : State}
    (h : (match issueNext p s with | .done o => o | .issue i s' => exec i s') = .next t) :
    t = s ∨ ∃ w ws, s.inbox.at p = w :: ws ∧
      ((∃ i, decode w = .ok i ∧ exec i { s with inbox := s.inbox.put p ws, curPort := p } = .next t) ∨
        (∃ e, decode w = .error e ∧ t = { s with inbox := s.inbox.put p ws, curPort := p }.reply .illegalOp 0 0)) := by
  unfold issueNext at h
  split at h
  · rename_i ho
    split at ho
    · cases ho; cases h; exact .inl rfl
    · rename_i w ws hi
      dsimp only at ho
      split at ho
      · cases ho
      · cases ho; cases h
        exact .inr ⟨w, ws, hi, .inr ⟨_, ‹_›, rfl⟩⟩
  · rename_i ho
    split at ho
    · cases ho
    · rename_i w ws hi
      dsimp only at ho
      split at ho
      · cases ho
        exact .inr ⟨w, ws, hi, .inl ⟨_, ‹_›, h⟩⟩
      · cases ho

/-- The state in which the word of port `p` is issued, `ws` being the words that then remain. -/
def State.issuing (s : State) (p : Port) (ws : List Command) : State :=
  { s.atTurn with inbox := s.inbox.put p ws, curPort := p }

/-- What a step can make of state `s`. -/
inductive StepEffect (s : State) : State → Prop where
  | reset (h : s.turns.head? = some .reset) : StepEffect s s.atTurn.resetEvent
  | stay : StepEffect s s.atTurn
  | runOnce (r : RunOnce) (t : State) (busy : s.ctl = .runOnce r) (h : runOnceStep r s.atTurn = .next t) : StepEffect s t
  | engine (t : State) (h : engineStep s.atTurn = .next t) : StepEffect s t
  | exec (p : Port) (w : Command) (ws : List Command) (i : Instr) (t : State) (word : s.inbox.at p = w :: ws)
      (ready : p = .ctl → s.ctl = .ready) (dec : decode w = .ok i) (h : exec i (s.issuing p ws) = .next t) : StepEffect s t
  | illegal (p : Port) (w : Command) (ws : List Command) (e : Illegal) (word : s.inbox.at p = w :: ws)
      (ready : p = .ctl → s.ctl = .ready) (dec : decode w = .error e) :
      StepEffect s ((s.issuing p ws).reply .illegalOp 0 0)

theorem issueNext_effect {p : Port} {s t : State} (hp : p = .ctl → s.ctl = .ready)
    (h : (match issueNext p s.atTurn with | .done o => o | .issue i s' => exec i s') = .next t) : StepEffect s t := by
  rcases issueNext_cases h with rfl | ⟨w, ws, hi, ⟨i, hd, he⟩ | ⟨e, hd, rfl⟩⟩
  · exact .stay
  · exact .exec p w ws i t hi hp hd he
  · exact .illegal p w ws e hi hp hd

theorem takeTurn_effect {tn : Turn} {s t : State} (htn : tn = .reset → s.turns.head? = some .reset)
    (h : (match takeTurn tn s.atTurn with | .done o => o | .issue i s' => exec i s') = .next t) : StepEffect s t := by
  match tn with
  | .reset => cases h; exact .reset (htn rfl)
  | .agent .mic => exact issueNext_effect (p := .mic) (by simp) h
  | .agent .ref => exact issueNext_effect (p := .ref) (by simp) h
  | .agent .out => exact issueNext_effect (p := .out) (by simp) h
  | .agent .eng => exact .engine t h
  | .agent .ctl =>
    rcases hc : s.ctl with _ | _ | r
    · have hc' : s.atTurn.ctl = .ready := hc
      simp only [takeTurn, controllerTurn, hc'] at h
      exact issueNext_effect (p := .ctl) (fun _ => hc) h
    · have hc' : s.atTurn.ctl = .waitStop := hc
      simp only [takeTurn, controllerTurn, hc'] at h
      cases h; exact .stay
    · have hc' : s.atTurn.ctl = .runOnce r := hc
      simp only [takeTurn, controllerTurn, hc'] at h
      exact .runOnce r t hc h

/-- Everything a step can do: a reset, nothing, a step of a `RUNONCE`, a step of the engine thread, an operation, or the answer
to an illegal word. -/
theorem step_cases {s t : State} (h : step s = .next t) : StepEffect s t := by
  unfold step fetch at h
  cases hts : s.turns with
  | nil =>
    have hs : s.atTurn = s := by cases s; simp_all [State.atTurn]
    simp only [hts] at h
    rw [← hs] at h
    refine takeTurn_effect ?_ h
    intro hd; unfold defaultTurn at hd; split at hd <;> cases hd
  | cons tn ts =>
    simp only [hts] at h
    have hs : s.atTurn = { s with turns := ts } := by simp [State.atTurn, hts]
    rw [← hs] at h
    exact takeTurn_effect (by intro hd; simp [hts, hd]) h

end Sys2Proof.Machine
end

