-- ==== Sys2Proof/Laws/Numerics.lean ====
section
/-! SUPPORT. The default numerics: the fields of an assembled pattern, NaN patterns, and the exact value that rounding gives. -/

namespace Sys2Proof.Machine

/-! ### The configuration field `NUM` -/

@[simp] theorem numerics_default : numerics .binary32 = binary32 := rfl
@[simp] theorem numerics_other (k : Nat) : numerics (.other k) = otherNumerics k := rfl

/-- In the default configuration the core computes in binary32. -/
theorem num_of_default {s : State} (h : s.cfg.num = .binary32) : s.num = binary32 := congrArg numerics h

@[simp] theorem binary32_fadd : binary32.fadd = fadd := rfl
@[simp] theorem binary32_fsub : binary32.fsub = fsub := rfl
@[simp] theorem binary32_fmul : binary32.fmul = fmul := rfl
@[simp] theorem binary32_fdiv : binary32.fdiv = fdiv := rfl
@[simp] theorem binary32_fabs : binary32.fabs = fabs := rfl
@[simp] theorem binary32_flt : binary32.flt = flt := rfl
@[simp] theorem binary32_fgt : binary32.fgt = fgt := rfl
@[simp] theorem binary32_isnan : binary32.isnan = isNaN := rfl
@[simp] theorem binary32_u2f : binary32.u2f = u2f := rfl
@[simp] theorem binary32_sum : binary32.sum = sumSeq fadd := rfl
@[simp] theorem binary32_max : binary32.max = maxSeq fgt := rfl

/-! ### Fields -/

theorem expField_eq (a : Sample) : expField a = (a.extractLsb' 23 8).toNat := by
  simp [expField, Nat.shiftRight_eq_div_pow]

theorem fracField_eq (a : Sample) : fracField a = (a.extractLsb' 0 23).toNat := by
  simp [fracField]

/-- Finite means that the exponent field is not 255 (R13). -/
theorem isFinite_iff (a : Sample) : Config.IsFinite a ↔ expField a ≠ 255 := by
  have key : a.toNat &&& 0x7F800000 = 2 ^ 23 * expField a := by
    have h1 : (a.toNat &&& 0x7F800000) / 2 ^ 23 = expField a := by
      rw [Nat.and_div_two_pow]
      exact Nat.and_two_pow_sub_one_eq_mod _ 8
    have h2 : (a.toNat &&& 0x7F800000) % 2 ^ 23 = 0 := by
      rw [Nat.and_mod_two_pow]; simp
    rw [← Nat.div_add_mod (a.toNat &&& 0x7F800000) (2 ^ 23), h1, h2, Nat.add_zero]
  unfold Config.IsFinite
  rw [ne_eq, ne_eq, not_iff_not, ← BitVec.toNat_inj, BitVec.toNat_and]
  change a.toNat &&& 0x7F800000 = 0x7F800000 ↔ _
  rw [key]; omega

theorem isNaN_iff (a : Sample) : isNaN a = true ↔ expField a = 255 ∧ fracField a ≠ 0 := by simp [isNaN]

theorem isFinite_not_isNaN {a : Sample} (h : Config.IsFinite a) : isNaN a = false := by
  have := (isFinite_iff a).1 h; simp [isNaN, this]

theorem isFinite_not_isInf {a : Sample} (h : Config.IsFinite a) : isInf a = false := by
  have := (isFinite_iff a).1 h; simp [isInf, this]

/-- The NaN that an operation makes is a NaN. -/
@[simp] theorem isNaN_someNaN (op : Nat) (a b : Sample) : isNaN (someNaN op a b) = true := by
  have hexp : ∀ r : Sample, (r ||| 0x7F800000).extractLsb' 23 8 = BitVec.allOnes 8 := by
    intro r
    rw [BitVec.extractLsb'_or]
    exact BitVec.or_allOnes
  rw [isNaN_iff, expField_eq, fracField_eq]
  unfold someNaN
  dsimp only
  generalize Config.nanBits op a b = r
  split
  · rename_i h
    constructor
    · rw [BitVec.extractLsb'_or, hexp]; decide
    · intro hz
      rw [BitVec.extractLsb'_or] at hz
      have hb := congrArg (fun v => Nat.testBit v 22) hz
      simp at hb
      exact absurd hb.2 (by decide)
  · rename_i h
    constructor
    · rw [hexp]; decide
    · intro hz
      apply h
      have hn : (r ||| 0x7F800000).toNat % 2 ^ 23 = 0 := by simpa using hz
      apply BitVec.eq_of_toNat_eq
      rw [BitVec.toNat_and]
      exact (Nat.and_two_pow_sub_one_eq_mod _ 23).trans hn

/-- Clearing the sign keeps a NaN a NaN and a number a number. -/
@[simp] theorem isNaN_fabs (a : Sample) : isNaN (fabs a) = isNaN a := by
  have he : expField (fabs a) = expField a := by
    simp only [expField_eq, fabs, BitVec.extractLsb'_and]
    exact congrArg BitVec.toNat (BitVec.and_allOnes (x := a.extractLsb' 23 8))
  have hf : fracField (fabs a) = fracField a := by
    simp only [fracField_eq, fabs, BitVec.extractLsb'_and]
    exact congrArg BitVec.toNat (BitVec.and_allOnes (x := a.extractLsb' 0 23))
  simp only [isNaN, he, hf]

/-- A product with a NaN factor is a NaN. -/
theorem isNaN_fmul_left {a : Sample} (h : isNaN a = true) (b : Sample) : isNaN (fmul a b) = true := by simp [fmul, h]

section WithSign

variable {neg : Bool} {low : Nat}

theorem withSign_toNat (h : low < 2 ^ 31) : (withSign neg low).toNat = low + if neg then 2 ^ 31 else 0 := by
  unfold withSign; cases neg <;> simp <;> omega

theorem signBit_withSign (h : low < 2 ^ 31) : signBit (withSign neg low) = neg := by
  unfold signBit
  rw [BitVec.msb_eq_decide, withSign_toNat h]
  cases neg <;> simp; omega

theorem expField_withSign (h : low < 2 ^ 31) : expField (withSign neg low) = low / 2 ^ 23 := by
  unfold expField; rw [withSign_toNat h]; cases neg <;> simp <;> omega

theorem fracField_withSign (h : low < 2 ^ 31) : fracField (withSign neg low) = low % 2 ^ 23 := by
  unfold fracField; rw [withSign_toNat h]; cases neg <;> simp; omega

theorem isNaN_withSign (h : low ≤ infLow) : isNaN (withSign neg low) = false := by
  unfold infLow at h
  have h31 : low < 2 ^ 31 := by omega
  simp only [isNaN, expField_withSign h31, fracField_withSign h31, Bool.and_eq_false_iff, decide_eq_false_iff_not]
  omega

theorem magnitude_withSign (h : low < 2 ^ 31) : magnitude (withSign neg low) =
    if low / 2 ^ 23 = 0 then low % 2 ^ 23 else (2 ^ 23 + low % 2 ^ 23) * 2 ^ (low / 2 ^ 23 - 1) := by
  unfold magnitude; rw [expField_withSign h, fracField_withSign h]

end WithSign

/-! ### Rounding -/

theorem roundLow_le (n d : Nat) : roundLow n d ≤ infLow := Nat.min_le_right _ _

@[simp] theorem roundLow_zero (d : Nat) : roundLow 0 d = 0 := by
  simp [roundLow]

/-- Rounding never makes a NaN. -/
@[simp] theorem isNaN_withSign_roundLow (neg : Bool) (n d : Nat) : isNaN (withSign neg (roundLow n d)) = false :=
  isNaN_withSign (roundLow_le n d)

/-- The low bits `q + e * 2^23`, with `q` of at most 24 bits and of exactly 24 unless `e` is 0, stand for `q * 2^e`. -/
theorem magnitude_assembled {neg : Bool} {q e : Nat} (hq : q ≤ 2 ^ 24) (he : e = 0 ∨ 2 ^ 23 ≤ q) (hlow : q + e * 2 ^ 23 < 2 ^ 31) :
    magnitude (withSign neg (q + e * 2 ^ 23)) = q * 2 ^ e := by
  rw [magnitude_withSign hlow]
  by_cases h24 : q = 2 ^ 24
  · subst h24
    have h1 : (2 ^ 24 + e * 2 ^ 23) / 2 ^ 23 = e + 2 := by omega
    have h2 : (2 ^ 24 + e * 2 ^ 23) % 2 ^ 23 = 0 := by omega
    rw [h1, h2, if_neg (by omega), show e + 2 - 1 = e + 1 by omega, Nat.pow_succ]; omega
  · by_cases h23 : 2 ^ 23 ≤ q
    · have h1 : (q + e * 2 ^ 23) / 2 ^ 23 = e + 1 := by omega
      have h2 : (q + e * 2 ^ 23) % 2 ^ 23 = q - 2 ^ 23 := by omega
      rw [h1, h2, if_neg (by omega), Nat.add_sub_cancel, Nat.add_sub_cancel' h23]
    · have h0 : e = 0 := by omega
      subst h0
      have h1 : (q + 0 * 2 ^ 23) / 2 ^ 23 = 0 := by omega
      rw [if_pos h1]; omega

/-- Where rounding is finite it gives the exact value `q' * 2^e`: `2^e` is the quantum, `q'` the nearest multiple. -/
theorem magnitude_roundLow {neg : Bool} {n d : Nat} (hfin : roundLow n d < infLow) :
    let e := Nat.log2 (n / d) - 23
    let h := d * 2 ^ e
    let q' := if h < 2 * (n % h) ∨ (2 * (n % h) = h ∧ n / h % 2 = 1) then n / h + 1 else n / h
    roundLow n d = q' + e * 2 ^ 23 ∧ magnitude (withSign neg (roundLow n d)) = q' * 2 ^ e ∧ n / h < 2 ^ 24 ∧
      (e = 0 ∨ 2 ^ 23 ≤ n / h) := by
  intro e h q'
  have hr : roundLow n d = min (q' + e * 2 ^ 23) infLow := rfl
  have hlow : q' + e * 2 ^ 23 < infLow := by
    rw [hr, min_lt_iff] at hfin; exact hfin.resolve_right (Nat.lt_irrefl _)
  have hq : n / h = n / d / 2 ^ e := (Nat.div_div_eq_div_mul n d (2 ^ e)).symm
  have hlt : n / h < 2 ^ 24 := by
    rw [hq, Nat.div_lt_iff_lt_mul (by positivity), ← Nat.pow_add]
    calc n / d < 2 ^ (Nat.log2 (n / d) + 1) := Nat.lt_log2_self
      _ ≤ 2 ^ (24 + e) := Nat.pow_le_pow_right (by decide) (by omega)
  have hge : e = 0 ∨ 2 ^ 23 ≤ n / h := by
    by_cases h0 : e = 0
    · exact .inl h0
    · right
      have hne : n / d ≠ 0 := by intro hz; apply h0; simp [e, hz]
      rw [hq, Nat.le_div_iff_mul_le (by positivity), ← Nat.pow_add]
      have := Nat.log2_self_le hne
      rwa [show 23 + e = Nat.log2 (n / d) by omega]
  have hle : q' ≤ 2 ^ 24 := by
    show (if _ then _ else _) ≤ _
    split
    · exact hlt
    · exact Nat.le_of_lt hlt
  have hge' : e = 0 ∨ 2 ^ 23 ≤ q' := by
    rcases hge with h0 | h0
    · exact .inl h0
    · right; show _ ≤ (if _ then _ else _)
      split
      · exact Nat.le_succ_of_le h0
      · exact h0
  have hmin : roundLow n d = q' + e * 2 ^ 23 := by rw [hr]; exact Nat.min_eq_left (Nat.le_of_lt hlow)
  refine ⟨hmin, ?_, hlt, hge⟩
  rw [hmin]
  exact magnitude_assembled hle hge' (Nat.lt_of_lt_of_le hlow (by decide))

end Sys2Proof.Machine
end

