-- ==== Sys2Proof/Laws/PerInstr.lean ====
section
/-! SUPPORT. Families of statements made per instruction (LAWS.json, "per_instruction"): `WordFields`, the fields `op` and
`unit` of each operation's word as spec/30_encoding.md R105 lists them. -/

namespace Sys2Proof.Laws.WordFields

/-- The operation code of R105. -/
def opOf : Instr → BitVec 8
  | .pushMic _ => 0x10
  | .pushRef _ => 0x10
  | .pushOut _ => 0x10
  | .popMic => 0x11
  | .popRef => 0x11
  | .popOut => 0x11
  | .lenMic => 0x12
  | .lenRef => 0x12
  | .lenOut => 0x12
  | .capMic => 0x13
  | .capRef => 0x13
  | .capOut => 0x13
  | .isemptyMic => 0x14
  | .isemptyRef => 0x14
  | .isemptyOut => 0x14
  | .isfullMic => 0x15
  | .isfullRef => 0x15
  | .isfullOut => 0x15
  | .bqinitLp _ _ => 0x20
  | .bqinitHp _ _ => 0x20
  | .bqtickLp _ => 0x21
  | .bqtickHp _ => 0x21
  | .casc _ => 0x22
  | .dlpush _ => 0x30
  | .dlrd _ => 0x31
  | .dlinit => 0x32
  | .adapt _ => 0x40
  | .wrd _ => 0x41
  | .enginit _ => 0x50
  | .iter => 0x51
  | .runonce => 0x52
  | .start => 0x60
  | .stop => 0x61
  | .unpark => 0x62
  | .csrr _ => 0x70
  | .csrw _ _ => 0x71

/-- The unit selector of R104 and R105. -/
def unitOf : Instr → BitVec 4
  | .pushMic _ => 0
  | .pushRef _ => 1
  | .pushOut _ => 2
  | .popMic => 0
  | .popRef => 1
  | .popOut => 2
  | .lenMic => 0
  | .lenRef => 1
  | .lenOut => 2
  | .capMic => 0
  | .capRef => 1
  | .capOut => 2
  | .isemptyMic => 0
  | .isemptyRef => 1
  | .isemptyOut => 2
  | .isfullMic => 0
  | .isfullRef => 1
  | .isfullOut => 2
  | .bqinitLp _ _ => 3
  | .bqinitHp _ _ => 4
  | .bqtickLp _ => 3
  | .bqtickHp _ => 4
  | .casc _ => 7
  | .dlpush _ => 5
  | .dlrd _ => 5
  | .dlinit => 5
  | .adapt _ => 6
  | .wrd _ => 6
  | .enginit _ => 7
  | .iter => 7
  | .runonce => 7
  | .start => 8
  | .stop => 8
  | .unpark => 8
  | .csrr _ => 9
  | .csrw _ _ => 9

/-- The word of `i` has the `op` and the `unit` of R105. -/
def Statement (i : Instr) : Prop := opField (encode i) = opOf i ∧ unitField (encode i) = unitOf i

theorem pushMic (v : Sample) : Statement (.pushMic v) := ⟨opField_assemble .., unitField_assemble ..⟩
theorem pushRef (v : Sample) : Statement (.pushRef v) := ⟨opField_assemble .., unitField_assemble ..⟩
theorem pushOut (v : Sample) : Statement (.pushOut v) := ⟨opField_assemble .., unitField_assemble ..⟩
theorem popMic : Statement (.popMic) := ⟨opField_assemble .., unitField_assemble ..⟩
theorem popRef : Statement (.popRef) := ⟨opField_assemble .., unitField_assemble ..⟩
theorem popOut : Statement (.popOut) := ⟨opField_assemble .., unitField_assemble ..⟩
theorem lenMic : Statement (.lenMic) := ⟨opField_assemble .., unitField_assemble ..⟩
theorem lenRef : Statement (.lenRef) := ⟨opField_assemble .., unitField_assemble ..⟩
theorem lenOut : Statement (.lenOut) := ⟨opField_assemble .., unitField_assemble ..⟩
theorem capMic : Statement (.capMic) := ⟨opField_assemble .., unitField_assemble ..⟩
theorem capRef : Statement (.capRef) := ⟨opField_assemble .., unitField_assemble ..⟩
theorem capOut : Statement (.capOut) := ⟨opField_assemble .., unitField_assemble ..⟩
theorem isemptyMic : Statement (.isemptyMic) := ⟨opField_assemble .., unitField_assemble ..⟩
theorem isemptyRef : Statement (.isemptyRef) := ⟨opField_assemble .., unitField_assemble ..⟩
theorem isemptyOut : Statement (.isemptyOut) := ⟨opField_assemble .., unitField_assemble ..⟩
theorem isfullMic : Statement (.isfullMic) := ⟨opField_assemble .., unitField_assemble ..⟩
theorem isfullRef : Statement (.isfullRef) := ⟨opField_assemble .., unitField_assemble ..⟩
theorem isfullOut : Statement (.isfullOut) := ⟨opField_assemble .., unitField_assemble ..⟩
theorem bqinitLp (m : Mode) (c : Sample) : Statement (.bqinitLp m c) := ⟨opField_assemble .., unitField_assemble ..⟩
theorem bqinitHp (m : Mode) (c : Sample) : Statement (.bqinitHp m c) := ⟨opField_assemble .., unitField_assemble ..⟩
theorem bqtickLp (x : Sample) : Statement (.bqtickLp x) := ⟨opField_assemble .., unitField_assemble ..⟩
theorem bqtickHp (x : Sample) : Statement (.bqtickHp x) := ⟨opField_assemble .., unitField_assemble ..⟩
theorem casc (x : Sample) : Statement (.casc x) := ⟨opField_assemble .., unitField_assemble ..⟩
theorem dlpush (v : Sample) : Statement (.dlpush v) := ⟨opField_assemble .., unitField_assemble ..⟩
theorem dlrd (i : Nat) : Statement (.dlrd i) := ⟨opField_assemble .., unitField_assemble ..⟩
theorem dlinit : Statement (.dlinit) := ⟨opField_assemble .., unitField_assemble ..⟩
theorem adapt (t : Sample) : Statement (.adapt t) := ⟨opField_assemble .., unitField_assemble ..⟩
theorem wrd (i : Nat) : Statement (.wrd i) := ⟨opField_assemble .., unitField_assemble ..⟩
theorem enginit (mu : Sample) : Statement (.enginit mu) := ⟨opField_assemble .., unitField_assemble ..⟩
theorem iter : Statement (.iter) := ⟨opField_assemble .., unitField_assemble ..⟩
theorem runonce : Statement (.runonce) := ⟨opField_assemble .., unitField_assemble ..⟩
theorem start : Statement (.start) := ⟨opField_assemble .., unitField_assemble ..⟩
theorem stop : Statement (.stop) := ⟨opField_assemble .., unitField_assemble ..⟩
theorem unpark : Statement (.unpark) := ⟨opField_assemble .., unitField_assemble ..⟩
theorem csrr (n : Nat) : Statement (.csrr n) := ⟨opField_assemble .., unitField_assemble ..⟩
theorem csrw (n : Nat) (v : Sample) : Statement (.csrw n v) := ⟨opField_assemble .., unitField_assemble ..⟩

end Sys2Proof.Laws.WordFields
end

