-- ==== Sys2Proof/Laws/Schedule.lean ====
section
/-! SUPPORT. What offering an event changes, how a run goes on, and what each turn of a schedule can do. -/

namespace Sys2Proof.Machine

variable (s : State) (e : Event)

@[simp] theorem offer_inbox : (s.offer e).inbox = s.inbox.append e.words := rfl
@[simp] theorem offer_turns : (s.offer e).turns = e.turn :: s.turns := rfl
@[simp] theorem offer_num : (s.offer e).num = s.num := rfl
@[simp] theorem offer_engine : (s.offer e).engine = s.engine := rfl
@[simp] theorem offer_control : (s.offer e).control = s.control := rfl
@[simp] theorem offer_cfg : (s.offer e).cfg = s.cfg := rfl
@[simp] theorem offer_mic : (s.offer e).mic = s.mic := rfl
@[simp] theorem offer_ref : (s.offer e).ref = s.ref := rfl
@[simp] theorem offer_out : (s.offer e).out = s.out := rfl
@[simp] theorem offer_dl : (s.offer e).dl = s.dl := rfl
@[simp] theorem offer_w : (s.offer e).w = s.w := rfl
@[simp] theorem offer_mu : (s.offer e).mu = s.mu := rfl
@[simp] theorem offer_epsr : (s.offer e).epsr = s.epsr := rfl
@[simp] theorem offer_thr : (s.offer e).thr = s.thr := rfl
@[simp] theorem offer_lp : (s.offer e).lp = s.lp := rfl
@[simp] theorem offer_hp : (s.offer e).hp = s.hp := rfl
@[simp] theorem offer_iter : (s.offer e).iter = s.iter := rfl
@[simp] theorem offer_telemEn : (s.offer e).telemEn = s.telemEn := rfl
@[simp] theorem offer_sched : (s.offer e).sched = s.sched := rfl
@[simp] theorem offer_ph : (s.offer e).ph = s.ph := rfl
@[simp] theorem offer_worked : (s.offer e).worked = s.worked := rfl
@[simp] theorem offer_killPending : (s.offer e).killPending = s.killPending := rfl
@[simp] theorem offer_token : (s.offer e).token = s.token := rfl
@[simp] theorem offer_fault : (s.offer e).fault = s.fault := rfl
@[simp] theorem offer_outOverrun : (s.offer e).outOverrun = s.outOverrun := rfl
@[simp] theorem offer_starved : (s.offer e).starved = s.starved := rfl
@[simp] theorem offer_telemetry : (s.offer e).telemetry = s.telemetry := rfl
@[simp] theorem offer_diag : (s.offer e).diag = s.diag := rfl
@[simp] theorem offer_ctl : (s.offer e).ctl = s.ctl := rfl
@[simp] theorem offer_curPort : (s.offer e).curPort = s.curPort := rfl
@[simp] theorem offer_responses : (s.offer e).responses = s.responses := rfl
@[simp] theorem offer_draws : (s.offer e).draws = s.draws := rfl

theorem append_at (b c : Inbox) (p : Port) : (b.append c).at p = b.at p ++ c.at p := by cases p <;> rfl

variable {s e} {events : Schedule} {t u : State} {k : Nat}

/-- An event offered leaves the invariant alone. -/
theorem Inv.offer (h : Inv s) (e : Event) : Inv (s.offer e) :=
  { config := h.config, caps := h.caps, storage := h.storage, weights := h.weights, phase := h.phase, faulted := h.faulted
    requested := h.requested, pending := h.pending, waits := h.waits, direct := h.direct }

@[simp] theorem follow_zero : follow events s 0 = .next s := rfl

/-- One event more of a run is one step more. -/
theorem follow_succ (h : follow events s k = .next t) : follow events s (k + 1) = step (t.offer (events k)) := by
  simp only [follow, h]

theorem follow_next (h : follow events s k = .next t) (h' : step (t.offer (events k)) = .next u) :
    follow events s (k + 1) = .next u := by rw [follow_succ h, h']

/-- What holds at the start and is kept by every step on the schedule holds all along the run. -/
theorem follow_induction {P : State → Prop} (h0 : P s) (hs : ∀ k t u, P t → step (t.offer (events k)) = .next u → P u) :
    ∀ k t, follow events s k = .next t → P t := by
  intro k
  induction k with
  | zero => intro t h; cases h; exact h0
  | succ k ih =>
    intro u h
    cases hf : follow events s k with
    | next t => exact hs k t u (ih t hf) (by rw [← follow_succ hf, h])
    | fault f => simp only [follow, hf] at h; cases h
    | refused r => simp only [follow, hf] at h; cases h

/-- On the engine thread's turn the step is that of the engine thread. -/
theorem step_offer_engine (h : e.turn = .agent .eng) :
    step (s.offer e) = engineStep { s with inbox := s.inbox.append e.words } := by
  simp [step, fetch, State.offer, h, takeTurn]

/-- While `A_CTL` waits for a `STOP` its turn leaves the state, the event's words apart. -/
theorem step_offer_waiting (h : e.turn = .agent .ctl) (hc : s.ctl = .waitStop) :
    step (s.offer e) = .next { s with inbox := s.inbox.append e.words } := by
  simp [step, fetch, State.offer, h, takeTurn, controllerTurn, hc]

/-- A step of the engine thread adds nothing to its inputs: it leaves an empty one empty. -/
theorem engineStep_inputs (h : engineStep s = .next t) :
    (s.mic.buf = [] → t.mic.buf = []) ∧ (s.ref.buf = [] → t.ref.buf = []) := by
  rcases engineStep_cases h with ⟨-, rfl⟩ | ⟨-, ⟨-, rfl⟩ | ⟨f, v, t', -, hi, rfl⟩ | ⟨-, -, rfl⟩ | ⟨t', -, hi, rfl⟩ | ⟨-, rfl⟩ |
    ⟨-, rfl⟩ | ⟨-, rfl⟩ | ⟨-, rfl⟩⟩
  · exact ⟨id, id⟩
  · unfold checkStep; dsimp only; split <;> [split; skip] <;> exact ⟨id, id⟩
  · rcases iterate_cases s with ⟨he, -⟩ | ⟨m, r, ms, rs, hm, hr, -⟩
    · rw [he] at hi; cases hi
    · simp [hm, hr]
  · exact ⟨id, id⟩
  · rcases iterate_cases s with ⟨he, -⟩ | ⟨m, r, ms, rs, hm, hr, -⟩
    · rw [he] at hi; cases hi
    · simp [hm, hr]
  · unfold lowtestStep; split <;> exact ⟨id, id⟩
  · unfold refillStep; split
    · simp
    · exact ⟨id, id⟩
  · unfold decideStep; split <;> [skip; split] <;> exact ⟨id, id⟩
  · exact ⟨id, id⟩

end Sys2Proof.Machine
end

