-- ==== Sys2Proof/Laws/Storage.lean ====
section
/-! SUPPORT. The core's only memory is its storages (spec/20_memory.md R70): every operation over them keeps their form,
`Memory.wf`, and reset establishes it. -/

namespace Sys2Proof.Machine

/-! ### The initial weights -/

/-- The law that `Config.toFinite` puts on a draw. -/
theorem toFinite_isFinite (x : Sample) : Config.IsFinite (Config.toFinite x) := by
  unfold Config.toFinite Config.IsFinite
  split
  · have h : x &&& 0x807FFFFF &&& 0x7F800000 = 0 := by
      rw [BitVec.and_assoc]; simp
    rw [h]; decide
  · assumption

theorem w0From_length (k i n : Nat) : (Config.w0From k i n).length = n := by
  induction n generalizing i with
  | zero => rfl
  | succ n ih => simp [Config.w0From, ih]

@[simp] theorem w0_length (k n : Nat) : (Config.w0 k n).length = n := w0From_length k 0 n

theorem w0From_finite (k i n : Nat) : ∀ x ∈ Config.w0From k i n, Config.IsFinite x := by
  induction n generalizing i with
  | zero => simp [Config.w0From]
  | succ n ih =>
    intro x hx
    rcases List.mem_cons.1 hx with rfl | hx
    · exact toFinite_isFinite _
    · exact ih _ x hx

/-- Every initial weight is finite (R60). -/
theorem w0_finite (k n : Nat) : ∀ x ∈ Config.w0 k n, Config.IsFinite x := w0From_finite k 0 n

/-! ### `Memory.wf` -/

theorem wf_iff (s : State) : Memory.wf s = true ↔
    s.dl.length = s.cfg.n ∧ s.w.length = s.cfg.n ∧ s.mic.buf.length ≤ s.mic.cap ∧ s.ref.buf.length ≤ s.ref.cap ∧
      s.out.buf.length ≤ s.out.cap := by
  simp [Memory.wf, and_assoc]

/-- Two states with the same storages are well formed together. -/
theorem wf_congr {s t : State} (hc : t.cfg = s.cfg) (hd : t.dl.length = s.dl.length) (hw : t.w.length = s.w.length)
    (hm : t.mic = s.mic) (hr : t.ref = s.ref) (ho : t.out = s.out) : Memory.wf t = Memory.wf s := by
  simp [Memory.wf, hc, hd, hw, hm, hr, ho]

@[simp] theorem wf_answer (s : State) (p : Port) (st : Status) (d1 d0 : BitVec 32) :
    Memory.wf (s.answer p st d1 d0) = Memory.wf s := rfl

@[simp] theorem wf_report (s : State) (e : DiagEvent) : Memory.wf (s.report e) = Memory.wf s := by cases e <;> rfl

@[simp] theorem wf_raiseNaNWeight (s : State) : Memory.wf s.raiseNaNWeight = Memory.wf s := rfl

theorem wf_boot (c : Params) (k : Nat) : Memory.wf (State.boot c k) = true := by
  simp [wf_iff, State.boot]

/-- The machine right after reset. -/
theorem wf_reset : Memory.wf State.reset = true := wf_boot _ _

theorem wf_resetEvent (s : State) : Memory.wf s.resetEvent = true := wf_boot s.cfg s.draws

theorem wf_push {s : State} (h : Memory.wf s = true) (q : FifoId) (v : Sample)
    (room : (s.fifo q).buf.length ≠ (s.fifo q).cap) :
    Memory.wf (s.setFifo q { s.fifo q with buf := (s.fifo q).buf ++ [v] }) = true := by
  obtain ⟨h1, h2, h3, h4, h5⟩ := (wf_iff s).1 h
  rw [wf_iff]
  cases q <;> simp only [State.fifo, State.setFifo, List.length_append, List.length_singleton] at * <;>
    exact ⟨h1, h2, by omega, by omega, by omega⟩

theorem wf_pop {s : State} (h : Memory.wf s = true) {q : FifoId} {v : Sample} {rest : List Sample}
    (hb : (s.fifo q).buf = v :: rest) : Memory.wf (s.setFifo q { s.fifo q with buf := rest }) = true := by
  obtain ⟨h1, h2, h3, h4, h5⟩ := (wf_iff s).1 h
  rw [wf_iff]
  cases q <;> simp only [State.fifo, State.setFifo] at * <;> simp only [hb, List.length_cons] at * <;>
    exact ⟨h1, h2, by omega, by omega, by omega⟩

theorem wf_setBiquad (s : State) (f : BiquadId) (b : Biquad) : Memory.wf (s.setBiquad f b) = Memory.wf s := by
  cases f <;> rfl

theorem wf_shiftIn {s : State} (h : Memory.wf s = true) (v : Sample) (hn : s.dl ≠ []) :
    Memory.wf { s with dl := shiftIn s.dl v } = true := by
  rw [← h]
  have := List.length_pos_of_ne_nil hn
  exact wf_congr rfl (by simp; omega) rfl rfl rfl rfl

theorem wf_engineInit {s : State} (h : Memory.wf s = true) (mu : Sample) : Memory.wf (engineInit mu s) = true := by
  obtain ⟨h1, h2, h3, h4, h5⟩ := (wf_iff s).1 h
  exact (wf_iff _).2 ⟨by simp [engineInit], by simp [engineInit], h3, h4, h5⟩

theorem adaptOn_w_length {s : State} (x : Sample) (fits : s.dl.length = s.w.length) :
    (s.adaptOn x).w.length = s.w.length := adapt_w_length s.num s.mu s.epsr s.thr s.w s.dl x s.draws fits

theorem wf_afterAdapt {s : State} (h : Memory.wf s = true) (x : Sample) : Memory.wf (s.afterAdapt (s.adaptOn x)) = true := by
  obtain ⟨h1, h2, -⟩ := (wf_iff s).1 h
  rw [← h]
  exact wf_congr rfl rfl (adaptOn_w_length x (h1.trans h2.symm)) rfl rfl rfl

/-- Silence is pushed only where there is room. -/
theorem wf_pushSilence {s : State} (h : Memory.wf s = true) : Memory.wf (pushSilence s) = true := by
  unfold pushSilence
  split
  · obtain ⟨hroom, rfl⟩ := push_eq_some ‹_›
    exact wf_push h .out silence hroom
  · exact h

theorem wf_countIteration (s : State) : Memory.wf (countIteration s) = Memory.wf s := by
  unfold countIteration; dsimp only; split <;> rfl

theorem wf_afterStepThree {s : State} (h : Memory.wf s = true) {m r : Sample} {ms rs : List Sample}
    (hm : s.mic.buf = m :: ms) (hr : s.ref.buf = r :: rs) (fits : (shiftIn s.dl r).length = s.w.length) :
    Memory.wf (afterStepThree m r ms rs s) = true := by
  obtain ⟨h1, h2, h3, h4, h5⟩ := (wf_iff s).1 h
  simp only [hm, hr, List.length_cons] at h3 h4
  have hw : (adaptOfIteration m r s).w.length = s.w.length := adapt_w_length s.num s.mu s.epsr s.thr s.w _ m s.draws fits
  exact (wf_iff _).2 ⟨fits.trans h2, hw.trans h2, Nat.le_of_succ_le h3, Nat.le_of_succ_le h4, h5⟩

theorem wf_afterStepFive {s : State} (h : Memory.wf s = true) {m r : Sample} {ms rs : List Sample}
    (hm : s.mic.buf = m :: ms) (hr : s.ref.buf = r :: rs) (ho : s.out.buf.length < s.out.cap)
    (fits : (shiftIn s.dl r).length = s.w.length) : Memory.wf (afterStepFive m r ms rs s) = true := by
  obtain ⟨h1, h2, h3, h4, -⟩ := (wf_iff _).1 (wf_afterStepThree h hm hr fits)
  exact (wf_iff _).2 ⟨h1, h2, h3, h4, by simpa [afterStepFive] using ho⟩

/-- An iteration that raises the fault keeps the storages' form. -/
theorem wf_iterate_nanWeight {s t : State} (h : Memory.wf s = true) (ht : iterate s = .nanWeight t) :
    Memory.wf t = true := by
  rcases iterate_cases s with ⟨he, -⟩ | ⟨m, r, ms, rs, hm, hr, ho, ⟨-, he⟩ | ⟨hf, -, he⟩ | ⟨hf, -, he⟩⟩ <;> rw [he] at ht <;>
    cases ht
  rw [wf_raiseNaNWeight]; exact wf_afterStepThree h hm hr hf

/-- An iteration that completes keeps the storages' form. -/
theorem wf_iterate_ok {s t : State} {f v : Sample} (h : Memory.wf s = true) (ht : iterate s = .ok f v t) :
    Memory.wf t = true := by
  rcases iterate_cases s with ⟨he, -⟩ | ⟨m, r, ms, rs, hm, hr, ho, ⟨-, he⟩ | ⟨hf, -, he⟩ | ⟨hf, -, he⟩⟩ <;> rw [he] at ht <;>
    cases ht
  rw [wf_countIteration]; exact wf_afterStepFive h hm hr ho hf

theorem wf_runOnceStep {r : RunOnce} {s t : State} (h : Memory.wf s = true) (ht : runOnceStep r s = .next t) :
    Memory.wf t = true := by
  rcases runOnceStep_cases ht with ⟨f, v, t', -, hi, rfl⟩ | ⟨-, -, rfl⟩ | ⟨t', -, hi, rfl⟩ | ⟨-, -, rfl⟩ | ⟨-, -, rfl⟩ | rfl
  · exact show Memory.wf t' = true from wf_iterate_ok h hi
  · exact h
  · exact show Memory.wf t' = true from wf_iterate_nanWeight h hi
  · exact (wf_report s .starved).trans h
  · exact wf_pushSilence h
  · exact h

/-- Every operation keeps the storages' form (with at least one tap, R8). -/
theorem wf_exec {i : Instr} {s t : State} (hn : 0 < s.cfg.n) (h : Memory.wf s = true) (ht : exec i s = .next t) :
    Memory.wf t = true := by
  have hd : s.dl ≠ [] := by
    intro hd; have := ((wf_iff s).1 h).1; simp [hd] at this; omega
  cases exec_effect ht with
  | reply => exact h
  | push _ q v _ _ room => exact wf_push h q v room
  | pop _ q v rest _ _ hb => exact wf_pop h hb
  | bqinitLp | bqinitHp | casc => exact h
  | bqtick _ f x d => exact (wf_setBiquad ..).trans h
  | dlpush v d => exact wf_shiftIn h v hd
  | dlinit d =>
    obtain ⟨-, h2, h3, h4, h5⟩ := (wf_iff s).1 h
    exact (wf_iff _).2 ⟨by simp, h2, h3, h4, h5⟩
  | adapt x d fits ok => exact wf_afterAdapt h x
  | adaptFault x d fits nan => exact (wf_raiseNaNWeight _).trans (wf_afterAdapt h x)
  | enginit mu d => exact wf_engineInit h mu
  | iterOk d f v t' hi => exact show Memory.wf t' = true from wf_iterate_ok h hi
  | iterFault d t' hi => exact show Memory.wf t' = true from wf_iterate_nanWeight h hi
  | runonce d t hr => exact wf_runOnceStep h hr
  | start | stop | stopAgain | unpark | telemEn | thr => exact h

end Sys2Proof.Machine
end

