-- ==== Sys2Proof/Tests/Slice0.lean ====
section
/-! SUPPORT. The model's own tests. Expected words, responses and values are those that spec/95_test_vectors.md works out by hand
from the rules; the vector's name stands in each docstring. The second half shows, for each statement with hypotheses, a state
and operands that meet them (`witness_…`). -/

namespace Sys2Proof.Tests

open Sys2Proof.Machine

/-! ### Well-formedness: one ill-formed term for each check (R106) -/

theorem test_dlrd_index_of_21_bits_refused : (Instr.dlrd (2 ^ 20)).wellFormed = false := by decide
theorem test_wrd_index_of_21_bits_refused : (Instr.wrd (2 ^ 20)).wellFormed = false := by decide
theorem test_csrr_number_of_21_bits_refused : (Instr.csrr (2 ^ 20)).wellFormed = false := by decide
theorem test_csrw_number_of_21_bits_refused : (Instr.csrw (2 ^ 20) 0).wellFormed = false := by decide

/-! ### Decoding: words written out from R101, R104, R105 and spec/95 -/

theorem test_decode_push :
    decode 0x100000003F800000 = .ok (.pushMic 0x3F800000) ∧ decode 0x101000003F800000 = .ok (.pushRef 0x3F800000) ∧
    decode 0x102000003F800000 = .ok (.pushOut 0x3F800000) := ⟨rfl, rfl, rfl⟩
theorem test_decode_pop :
    decode 0x1100000000000000 = .ok .popMic ∧ decode 0x1110000000000000 = .ok .popRef ∧
    decode 0x1120000000000000 = .ok .popOut := ⟨rfl, rfl, rfl⟩
theorem test_decode_len_and_cap :
    decode 0x1200000000000000 = .ok .lenMic ∧ decode 0x1210000000000000 = .ok .lenRef ∧
    decode 0x1220000000000000 = .ok .lenOut ∧ decode 0x1300000000000000 = .ok .capMic ∧
    decode 0x1310000000000000 = .ok .capRef ∧ decode 0x1320000000000000 = .ok .capOut :=
  ⟨rfl, rfl, rfl, rfl, rfl, rfl⟩
theorem test_decode_isempty_and_isfull :
    decode 0x1400000000000000 = .ok .isemptyMic ∧ decode 0x1410000000000000 = .ok .isemptyRef ∧
    decode 0x1420000000000000 = .ok .isemptyOut ∧ decode 0x1500000000000000 = .ok .isfullMic ∧
    decode 0x1510000000000000 = .ok .isfullRef ∧ decode 0x1520000000000000 = .ok .isfullOut :=
  ⟨rfl, rfl, rfl, rfl, rfl, rfl⟩
theorem test_decode_biquad :
    decode 0x2030000045548000 = .ok (.bqinitLp .lowPass 0x45548000) ∧
    decode 0x2040000143960000 = .ok (.bqinitHp .highPass 0x43960000) ∧
    decode 0x20300004447A0000 = .ok (.bqinitLp .peak 0x447A0000) ∧
    decode 0x213000003F800000 = .ok (.bqtickLp 0x3F800000) ∧ decode 0x2140000040000000 = .ok (.bqtickHp 0x40000000) ∧
    decode 0x227000003F800000 = .ok (.casc 0x3F800000) := ⟨rfl, rfl, rfl, rfl, rfl, rfl⟩
theorem test_decode_delay_line :
    decode 0x30500000BF800000 = .ok (.dlpush 0xBF800000) ∧ decode 0x315007FF00000000 = .ok (.dlrd 2047) ∧
    decode 0x3250000000000000 = .ok .dlinit := ⟨rfl, rfl, rfl⟩
theorem test_decode_adaptive :
    decode 0x4060000040000000 = .ok (.adapt 0x40000000) ∧ decode 0x4160000300000000 = .ok (.wrd 3) := ⟨rfl, rfl⟩
theorem test_decode_engine :
    decode 0x507000003F000000 = .ok (.enginit 0x3F000000) ∧ decode 0x5170000000000000 = .ok .iter ∧
    decode 0x5270000000000000 = .ok .runonce := ⟨rfl, rfl, rfl⟩
theorem test_decode_control :
    decode 0x6080000000000000 = .ok .start ∧ decode 0x6180000000000000 = .ok .stop ∧
    decode 0x6280000000000000 = .ok .unpark := ⟨rfl, rfl, rfl⟩
theorem test_decode_registers :
    decode 0x7090001A00000000 = .ok (.csrr 0x1A) ∧ decode 0x719000047F7FFFFF = .ok (.csrw 4 0x7F7FFFFF) := ⟨rfl, rfl⟩

/-- Vectors X1 to X6, B6f and Q18. -/
theorem test_illegal_words :
    decode 0x0000000000000000 = .error .badOp ∧ decode 0x1100000000000001 = .error .dataNotZero ∧
    decode 0x6080000100000000 = .error .auxNotZero ∧ decode 0x12A0000000000000 = .error .badUnit ∧
    decode 0x2030000845548000 = .error .auxNotZero ∧ decode 0xFFFFFFFFFFFFFFFF = .error .badOp ∧
    decode 0x20300005447A0000 = .error .badModeCode ∧ decode 0x1030000000000000 = .error .badUnit :=
  ⟨rfl, rfl, rfl, rfl, rfl, rfl, rfl, rfl⟩

/-! ### Numerics: values worked out in spec/95 -/

/-- Vector A5: `1/7`, its product with 3 and the sum with 0.5. -/
theorem test_rounded_arithmetic :
    fdiv 0x3F800000 0x40E00000 = 0x3E124925 ∧ fmul 0x3E124925 0x40400000 = 0x3EDB6DB8 ∧
    fadd 0x3F000000 0x3EDB6DB8 = 0x3F6DB6DC := by decide
/-- Vectors A2 (`−0.0 + +0.0`), H5 (`1 − 1`) and A8 (overflow of a product). -/
theorem test_zero_sign_and_overflow :
    fadd 0x80000000 0x00000000 = 0x00000000 ∧ fsub 0x3F800000 0x3F800000 = 0x00000000 ∧
    fmul 0x7E4CCCCC 0x41000000 = 0x7F800000 := by decide
/-- Vector T1: the ratios. -/
theorem test_ratios :
    fdiv (u2f 1) (u2f 4) = 0x3E800000 ∧ fdiv (u2f 2) (u2f 16) = 0x3E000000 ∧ fdiv (u2f 1) (u2f 3) = 0x3EAAAAAB := by decide

/-! ### Small machines -/

/-- The configuration of spec/95: `N` = 4, `EPS` = 1.0, with `CAP_OUT` = 10. -/
def tiny : Params :=
  { n := 4, fs := 48000, fLp := 0x45548000, fHp := 0x43960000, thr0 := 0x3B23D70A, mu0 := 0x3F800000, eps := 0x3F800000
    capMic := 2, capRef := 2, capOut := 10, tstride := 2, lowNum := 1, lowDen := 5, refill := 5
    cLp := Config.refLowPass, cHp := Config.refHighPass, num := .binary32 }

/-- Reset with the weights `w`, a command about to be run for port `p`. -/
def idle (p : Port) (w : List Sample) : State := { State.boot tiny 0 with w := w, curPort := p }

/-- The weights of vector A1. -/
def wA : List Sample := [0x3F000000, 0xBE800000, 0x00000000, 0x3F800000]

/-- A_CTL in direct access, with the weights and the window of vectors A1. -/
def held : State := { idle .ctl wA with dl := [0x3F800000, 0x40000000, 0x00000000, 0xBF800000] }

/-- Both inputs hold a sample: the start of program P2, iteration 1. -/
def loaded : State :=
  { idle .ctl [0, 0, 0, 0x3F000000] with
    mic := { cap := 2, buf := [0x3F800000] }
    ref := { cap := 2, buf := [0x3F800000] } }

/-- A fault has happened. -/
def broken (p : Port) : State := { idle p wA with fault := true, sched := .faulted, diag := [.nanWeight] }

/-- The engine thread runs, in a phase. -/
def running (ph : Phase) : State := { loaded with sched := .running, ph := ph }

/-- A `STOP` waits, the engine thread in a phase. -/
def stopping (ph : Phase) : State :=
  { idle .ctl wA with sched := .stopRequested, killPending := true, ctl := .waitStop, ph := ph }

/-- A `RUNONCE` stands in its drain loop. -/
def draining : State := { idle .ctl wA with ctl := .runOnce { phase := .drain, n := 3, z := 0 } }

/-- A later pass of a `RUNONCE`, both inputs holding a sample. -/
def passing : State := { loaded with ctl := .runOnce { phase := .drain, n := 2, z := 0 } }

/-- The outcome is a next state that satisfies `p`. -/
def gives (o : StepOutcome) (p : State → Bool) : Bool :=
  match o with
  | .next t => p t
  | .fault _ | .refused _ => false

/-- The outcome is a next state whose last response is this one. -/
def answers (o : StepOutcome) (st : Status) (d1 d0 : BitVec 32) : Bool :=
  gives o fun t => t.responses.getLast?.map (fun r => (r.st, r.d1, r.d0)) = some (st, d1, d0)

/-! ### One operation at a time -/

/-- Vectors Q1, Q3. -/
theorem test_push_mic :
    gives (exec (.pushMic 0x3F800000) (idle .mic wA)) (·.mic.buf = [0x3F800000]) = true ∧
    answers (exec (.pushMic 0x40400000) { idle .mic wA with mic := { cap := 2, buf := [1, 2] } }) .full 0 0 = true := by decide
/-- Vectors Q14, Q16. -/
theorem test_wrong_end_and_busy :
    answers (exec (.pushOut 0x3F800000) (idle .out wA)) .notOwner 0 0 = true ∧
    answers (exec .popMic (running .check)) .busy 0 0 = true := by decide
/-- Vectors Q4, Q13: the oldest sample, bit for bit. -/
theorem test_pop_mic :
    answers (exec .popMic { held with mic := { cap := 2, buf := [0x7FC00001, 1] } }) .ok 0 0x7FC00001 = true ∧
    gives (exec .popMic { held with mic := { cap := 2, buf := [0x7FC00001, 1] } }) (·.mic.buf = [1]) = true := by decide
/-- Vectors Q6 to Q12. -/
theorem test_queries :
    answers (exec .popOut (idle .out wA)) .empty 0 0 = true ∧
    answers (exec .lenMic { idle .mic wA with mic := { cap := 2, buf := [1, 2] } }) .ok 0 2 = true ∧
    answers (exec .isfullMic { idle .mic wA with mic := { cap := 2, buf := [1, 2] } }) .ok 0 1 = true ∧
    answers (exec .isemptyMic { idle .mic wA with mic := { cap := 2, buf := [1, 2] } }) .ok 0 0 = true ∧
    answers (exec .capOut (idle .out wA)) .ok 0 10 = true := by decide
/-- Vectors B6c, B6d. -/
theorem test_bqinit_refused :
    answers (exec (.bqinitLp .peak 0x447A0000) held) .badMode 0 0 = true ∧
    answers (exec (.bqinitLp .lowPass 0x46BB8000) held) .badParam 0 0 = true := by decide
/-- Vector B6a, on a slot that held other coefficients. -/
theorem test_bqinit_lp :
    gives (exec (.bqinitLp .lowPass 0x45548000) { held with lp := Biquad.fresh Config.refHighPass })
      (·.lp = Biquad.fresh Config.refLowPass) = true := by decide
/-- Vector B2, n = 1. -/
theorem test_bqtick_lp :
    answers (exec (.bqtickLp 0) { held with lp := { held.lp with x1 := 0x3F800000, y1 := 0x3D18F229 } }) .ok 0 0x3E016359 = true := by
  decide +kernel
/-- R13: under another `NUM` the same command computes with that record. -/
theorem test_bqtick_under_another_num (x : Sample) :
    exec (.bqtickLp x) { held with cfg := { tiny with num := .other 3 } } =
      .next (bqtickCommand .lp x { held with cfg := { tiny with num := .other 3 } }) ∧
    (tick (otherNumerics 3) held.lp x).1 = tickOutput ({ held with cfg := { tiny with num := .other 3 } } : State).num held.lp x :=
  ⟨rfl, rfl⟩
/-- Vector B5, n = 0. -/
theorem test_casc : answers (exec (.casc 0x3F800000) held) .ok 0 0x3D14C1E1 = true := by decide +kernel
/-- Vectors K8, K9. -/
theorem test_delay_line :
    gives (exec (.dlpush 0x40A00000) held) (·.dl = [0x40000000, 0x00000000, 0xBF800000, 0x40A00000]) = true ∧
    gives (exec .dlinit held) (·.dl = [0, 0, 0, 0]) = true := by decide
/-- Vectors K5 to K7. -/
theorem test_dlrd :
    answers (exec (.dlrd 0) held) .ok 0 0x3F800000 = true ∧ answers (exec (.dlrd 3) held) .ok 0 0xBF800000 = true ∧
    answers (exec (.dlrd 4) held) .badIndex 0 0 = true := by decide
/-- Vector A1a: the gate is closed. -/
theorem test_adapt_gate_closed :
    answers (exec (.adapt 0x40000000) { held with epsr := 0x40000000 }) .ok 0x40100000 0xBF800000 = true ∧
    gives (exec (.adapt 0x40000000) { held with epsr := 0x40000000 }) (·.w = wA) = true := by decide +kernel
/-- Vector A5: the gate is open and every step rounds. -/
theorem test_adapt_gate_open :
    gives (exec (.adapt 0x40000000) { held with thr := 0x7F7FFFFF })
      (·.w = [0x3F6DB6DC, 0x3F1B6DB8, 0x00000000, 0x3F124924]) = true := by decide +kernel
/-- Program P3, step 7, and the iteration's effect on the inputs, the window and `OUT`. -/
theorem test_iter :
    answers (exec .iter loaded) .ok 0x3E000000 0x3C94C1E1 = true ∧
    gives (exec .iter loaded) (fun t => t.mic.buf = [] && t.ref.buf = [] && t.dl = [0, 0, 0, 0x3F800000] &&
      t.out.buf = [0x3C94C1E1] && t.iter = 1 && t.w = loaded.w) = true := by decide +kernel
/-- Vector G1. -/
theorem test_iter_no_work : answers (exec .iter held) .noWork 0 0 = true := by decide
/-- Vector G3, the first step of the operation: no work, on to the low-water test. -/
theorem test_runonce :
    gives (exec .runonce held) (fun t => t.ctl = .runOnce { phase := .lowtest, n := 0, z := 0 } && t.responses = []) = true := by
  decide
/-- R206: a later pass runs an iteration and counts it, without a response. -/
theorem test_runonce_later_pass :
    gives (step (passing.onTurn (.agent .ctl))) (fun t =>
      t.ctl = .runOnce { phase := .drain, n := 3, z := 0 } && t.out.buf = [0x3C94C1E1] && t.responses = []) = true := by
  decide +kernel
/-- Vectors Z1, Z2, Z7. -/
theorem test_start :
    gives (exec .start held) (fun t => t.sched = .running && t.ph = .check) = true ∧
    answers (exec .start (running .drain)) .badState 0 0 = true ∧
    answers (exec .start (broken .ctl)) .faulted 0 0 = true := by decide
/-- Vectors Z3, Z4, Z6. -/
theorem test_stop :
    answers (exec .stop held) .badState 0 0 = true ∧
    gives (exec .stop (running .drain)) (fun t => t.killPending && t.sched = .stopRequested && t.responses = []) = true ∧
    answers (exec .stop (broken .ctl)) .panic 0 0 = true := by decide
/-- Vectors Z8, Z9. -/
theorem test_unpark :
    (∃ n, exec .unpark (idle .mic wA) = .next ({ idle .mic wA with draws := n }.reply .ok 0 0)) ∧
    answers (exec .unpark (idle .ref wA)) .notOwner 0 0 = true :=
  ⟨⟨2, by simp [exec, execUnpark, gate, onlyOn, unparkCommand, idle, State.boot, Sched.threadRuns]⟩, by decide⟩
/-- Vector G5. -/
theorem test_enginit :
    gives (exec (.enginit 0x3F000000) { held with iter := 7, telemEn := true, starved := true }) (fun t =>
      t.mu = 0x3F000000 && t.thr = 0x3B23D70A && t.dl = [0, 0, 0, 0] && t.iter = 0 && !t.telemEn && t.starved) = true := by decide
/-- Vector A1b, the last read. -/
theorem test_wrd : answers (exec (.wrd 3) held) .ok 0 0x3F800000 = true ∧ answers (exec (.wrd 4) held) .badIndex 0 0 = true := by
  decide
/-- Vectors Z11, Z12, Z13. -/
theorem test_csrr :
    answers (exec (.csrr 4) held) .ok 0 0x3B23D70A = true ∧ answers (exec (.csrr 7) held) .ok 0 0xBB80 = true ∧
    answers (exec (.csrr 0x1A) held) .badIndex 0 0 = true := by decide
/-- Vectors Z15, Z17. -/
theorem test_csrw :
    gives (exec (.csrw 1 0xFFFFFFFF) held) (·.telemEn) = true ∧ answers (exec (.csrw 2 0x3F000000) held) .badIndex 0 0 = true := by
  decide
/-- The end of program P4: `STATUS` after the stop. -/
theorem test_status :
    ({ held with sched := .stopped, starved := true, worked := true } : State).statusWord = 0x00000823 := by decide
/-- Vector H1. -/
theorem test_downmix :
    downmixMic binary32 [0x3F800000, 0x40400000, 0x40A00000, 0x40E00000] = some [0x1000000040000000, 0x1000000040C00000] := by decide

/-! ### Witnesses: the hypotheses of each statement are met together -/

theorem direct {s : State} (hp : s.curPort = .ctl) (hs : s.sched.held = true) : s.DirectAccess := ⟨hp, hs⟩

theorem valid_tiny : tiny.Valid :=
  { taps := by decide, rate := by decide, cutoffLp := by decide, cutoffHp := by decide, epsFinite := by decide
    epsPositive := by decide, mic := by decide, ref := by decide, out := by decide, stride := by decide, low := by decide
    refill := by decide
    coefsLp := ⟨by decide, by decide, by decide, by decide, by decide⟩
    coefsHp := ⟨by decide, by decide, by decide, by decide, by decide⟩ }

theorem numbers {l : List Sample} (h : l.all (fun x => !isNaN x) = true) : ∀ x ∈ l, isNaN x = false := by simpa using h
theorem finites {l : List Sample} (h : l.all (fun x => decide (Config.IsFinite x)) = true) : ∀ x ∈ l, Config.IsFinite x := by
  simpa using h

/-- The invariant of a machine with the small configuration, its `A_CTL` not in a `RUNONCE`. -/
theorem inv_of {s : State} (h1 : s.cfg = tiny) (h2 : s.mic.cap = 2 ∧ s.ref.cap = 2 ∧ s.out.cap = 10)
    (h3 : Memory.wf s = true) (h4 : s.w.all (fun x => !isNaN x) = true)
    (h5 : s.sched.held = true → s.ph = .check) (h6 : s.fault = true ↔ s.sched = .faulted)
    (h7 : s.sched = .stopRequested → s.killPending = true)
    (h8 : s.killPending = true → s.sched = .stopRequested ∨ s.sched = .faulted)
    (h9 : s.ctl = .waitStop ↔ s.sched = .stopRequested) (h10 : s.sched.held = true ∨ s.ctl = .ready ∨ s.ctl = .waitStop) :
    Inv s :=
  { config := h1 ▸ valid_tiny, caps := by rw [h1]; exact h2, storage := h3, weights := fun _ _ => by rw [show s.num = binary32 by rw [State.num, h1]; rfl]; exact numbers h4, phase := h5, faulted := h6
    requested := h7, pending := h8, waits := h9
    direct := by rintro ⟨r, hr⟩; rcases h10 with h | h | h
                 · exact h
                 · rw [h] at hr; cases hr
                 · rw [h] at hr; cases hr }

theorem inv_held : Inv held := by apply inv_of <;> decide
theorem inv_running : Inv (running .drain) := by apply inv_of <;> decide
theorem inv_stopping : Inv (stopping .parked) := by apply inv_of <;> decide
theorem inv_draining : Inv draining := by apply inv_of <;> decide
theorem inv_passing : Inv passing := by apply inv_of <;> decide
theorem inv_broken : Inv (broken .ctl) := by apply inv_of <;> decide

/-- Operands at the last value their field admits. -/
theorem witness_DecodeEncodeRoundTrip :
    (Instr.dlrd (2 ^ 20 - 1)).WellFormed ∧ (Instr.csrw (2 ^ 20 - 1) 0xFFFFFFFF).WellFormed := by decide
theorem witness_LegalWordIsTheEncodingOfItsOperation :
    decode 0x71FFFFFFFFFFFFFF = .error .badUnit ∧ decode 0x719FFFFFFFFFFFFF = .ok (.csrw 0xFFFFF 0xFFFFFFFF) := ⟨rfl, rfl⟩

/-- A state with two words waiting at a port. -/
def waiting (p : Port) (w : Command) : State := { held with inbox := held.inbox.put p [w, 0] }

theorem witness_StepRunsTheDecodedInstruction :
    (decode 0x5170000000000000 = .ok .iter ∧ (waiting .ctl 0x5170000000000000).inbox.at .ctl = [0x5170000000000000, 0] ∧
      (Port.ctl = .ctl → (waiting .ctl 0x5170000000000000).ctl = .ready)) ∧
    (decode 0x6280000000000000 = .ok .unpark ∧
      { waiting .mic 0x6280000000000000 with ctl := .waitStop }.inbox.at .mic = [0x6280000000000000, 0] ∧
      (Port.mic = .ctl → { waiting .mic 0x6280000000000000 with ctl := .waitStop }.ctl = .ready)) :=
  ⟨⟨rfl, rfl, fun _ => rfl⟩, rfl, rfl, by decide⟩
theorem witness_IllegalWordAnswersIllegalOp :
    decode 0x20300005447A0000 = .error .badModeCode ∧ (waiting .out 0x20300005447A0000).inbox.at .out = [0x20300005447A0000, 0] ∧
    (Port.out = .ctl → (waiting .out 0x20300005447A0000).ctl = .ready) := ⟨rfl, rfl, by decide⟩
theorem witness_PlacedWordIsRunNext : decodeTableWord 64 0x6180000000000000 = some .stop := rfl
theorem witness_CommandOnAForeignPortAnswersNotOwner :
    portTable (idle .ref wA).curPort .unpark = .never ∧ portTable held.curPort .popOut = .never := by decide
theorem witness_EngineCommandNotHeldAnswersBusyOrFaulted :
    (portTable (running .drain).curPort .iter = .held ∧ (running .drain).sched = .running) ∧
    (portTable (stopping .check).curPort .lenMic = .held ∧ (stopping .check).sched = .stopRequested) ∧
    (portTable (broken .ctl).curPort (.csrw 1 0) = .held ∧ (broken .ctl).sched = .faulted) := by decide

/-- A FIFO of two places with one sample, and with two: one push away from full, and full. -/
def almost : Fifo := { cap := 2, buf := [1] }
def full : Fifo := { cap := 2, buf := [1, 2] }

theorem witness_PushAppendsOrAnswersFull :
    ({ idle .mic wA with mic := almost }.curPort = .mic ∧ almost.buf.length ≠ almost.cap) ∧
    ({ idle .ref wA with ref := full }.curPort = .ref ∧ full.buf.length = full.cap) ∧
    ({ held with out := almost }.DirectAccess ∧ almost.buf.length ≠ almost.cap) :=
  ⟨by decide, by decide, direct rfl rfl, by decide⟩
theorem witness_PopRemovesTheOldestOrAnswersEmpty :
    ({ held with mic := full }.DirectAccess ∧ full.buf = 1 :: [2]) ∧ (held.DirectAccess ∧ held.mic.buf = []) ∧
    ({ held with ref := almost }.DirectAccess ∧ almost.buf = 1 :: []) ∧ (held.DirectAccess ∧ held.ref.buf = []) ∧
    ({ idle .out wA with out := almost }.curPort = .out ∧ almost.buf = 1 :: []) ∧
    ((idle .out wA).curPort = .out ∧ (idle .out wA).out.buf = []) :=
  ⟨⟨direct rfl rfl, rfl⟩, ⟨direct rfl rfl, rfl⟩, ⟨direct rfl rfl, rfl⟩, ⟨direct rfl rfl, rfl⟩, ⟨rfl, rfl⟩, rfl, rfl⟩
theorem witness_QueriesAnswerLengthCapacityAndFlags :
    ({ running .drain with curPort := .mic }.MayQuery .mic ∧ { held with mic := full }.MayQuery .mic) ∧
    ({ broken .ref with ref := almost }.MayQuery .ref ∧ held.MayQuery .ref) ∧
    ((idle .out wA).MayQuery .out ∧ { held with out := full }.MayQuery .out) :=
  ⟨⟨.inl rfl, .inr (direct rfl rfl)⟩, ⟨.inl rfl, .inr (direct rfl rfl)⟩, .inl rfl, .inr (direct rfl rfl)⟩
theorem witness_FifoRoundTrip :
    ({ cap := 2, buf := [] } : Fifo).buf = [] ∧ [(1 : Sample), 2].length ≤ ({ cap := 2, buf := [] } : Fifo).cap ∧
    [(1 : Sample), 2].length = ({ cap := 2, buf := [] } : Fifo).cap := by decide
/-- A ring that is full and wrapped, and one that is empty. -/
theorem witness_RingImplementsTheFifo :
    ({ cap := 2, store := [3, 2], rd := 1, wr := 3 } : Ring).ok = true ∧
    ({ cap := 2, store := [3, 2], rd := 3, wr := 3 } : Ring).ok = true := by decide
/-- The cutoff one above half of `FS` and the default one; a shelf; the first and the last of the open interval's ends. -/
theorem witness_BqinitConstructsTheBiquad :
    held.DirectAccess ∧ (∃ c, coef held.cfg .lowPass 0x45548000 = some c) ∧ held.acceptsCutoff 0x45548000 = true ∧
    held.acceptsCutoff 0x46BB8000 = false ∧ held.acceptsCutoff 0x46BB7FFF = true ∧ held.acceptsCutoff 0 = false ∧
    held.acceptsCutoff 1 = true ∧ held.acceptsCutoff 0x7F800000 = false ∧ held.acceptsCutoff 0x7FC00000 = false ∧
    coef held.cfg .peak 0x45548000 = none :=
  ⟨direct rfl rfl, ⟨_, rfl⟩, by decide⟩
theorem witness_BqtickComputesTheRecurrence : held.DirectAccess := direct rfl rfl
theorem witness_CascIsTickLpThenTickHp : { held with sched := .stopped }.DirectAccess := direct rfl rfl
theorem witness_CoefficientsChangeOnlyAtConstruction :
    (∃ t, exec (.casc 0x3F800000) held = .next t) ∧ (∃ t, engineStep (running .check) = .next t) ∧
    (∃ t, runOnceStep { phase := .lowtest, n := 0, z := 0 } draining = .next t) := ⟨⟨_, rfl⟩, ⟨_, rfl⟩, _, rfl⟩
theorem witness_DelayLineInitAndPush : held.DirectAccess := direct rfl rfl
/-- The last element of both storages, and the first index beyond. -/
theorem witness_StorageReadsAnswerTheElementOrBadIndex :
    held.DirectAccess ∧ held.cfg.n ≤ 4 ∧ 3 < held.cfg.n ∧ held.dl[3]? = some 0xBF800000 ∧ held.w[3]? = some 0x3F800000 :=
  ⟨direct rfl rfl, by decide⟩
theorem witness_CircularLineImplementsTheDelayLine :
    1 ≤ (1 : Nat) ∧ ({ store := [1, 2, 3, 4], wp := 3 } : CircularLine).ok = true ∧ ({ store := [1], wp := 0 } : CircularLine).ok = true := by
  decide

/-- The quantities of vector A5. -/
def termsA : AdaptTerms :=
  { output := 0xBF800000, error := 0x40400000, energy := 0x40C00000, step := 0x3E124925, se := 0x3EDB6DB8
    dw := [0x3EDB6DB8, 0x3F5B6DB8, 0x00000000, 0xBEDB6DB8], t := [0x3FA4924A, 0x4024924A, 0x00000000, 0x3FA4924A] }
theorem termsA_eq : adaptTerms held.num held.mu held.epsr held.w held.dl 0x40000000 = termsA := by decide +kernel
theorem termsA_numbers :
    (∀ x ∈ termsA.t, isNaN x = false) ∧ maxSeq fgt termsA.t = 0x4024924A ∧
    (∀ x ∈ List.zipWith fadd held.w termsA.dw, isNaN x = false) :=
  ⟨numbers (by decide), by decide +kernel, numbers (by decide +kernel)⟩
/-- Vector A5: no compared product is a NaN; the gate is closed at `THR0` and open at the largest sample. -/
theorem witness_AdaptUpdatesTheWeightsThroughTheGate :
    held.DirectAccess ∧ held.dl.length = held.w.length ∧
    adaptTerms held.num held.mu held.epsr held.w held.dl 0x40000000 = termsA ∧ (∀ x ∈ termsA.t, isNaN x = false) ∧
    flt (maxSeq fgt termsA.t) held.thr = false ∧ flt (maxSeq fgt termsA.t) 0x7F7FFFFF = true ∧
    (∀ x ∈ List.zipWith fadd held.w termsA.dw, isNaN x = false) :=
  ⟨direct rfl rfl, rfl, termsA_eq, termsA_numbers.1, by rw [termsA_numbers.2.1]; decide +kernel,
    by rw [termsA_numbers.2.1]; decide +kernel, termsA_numbers.2.2⟩
/-- Vector A8: a compared product is a NaN though every operand is finite. -/
def overflowing : State :=
  { held with w := [0, 0], dl := [0, 0x40000000], mu := 0x7F7FFFFF }
theorem overflow_error :
    overflowing.num.fsub 0x41000000 (overflowing.num.sum (List.zipWith overflowing.num.fmul overflowing.w overflowing.dl)) = 0x41000000 := by decide +kernel
theorem overflow_se :
    overflowing.num.fmul (overflowing.num.fdiv overflowing.mu (overflowing.num.fadd overflowing.epsr (overflowing.num.sum (overflowing.dl.map fun x => overflowing.num.fmul x x))))
      (overflowing.num.fsub 0x41000000 (overflowing.num.sum (List.zipWith overflowing.num.fmul overflowing.w overflowing.dl))) = 0x7F800000 := by decide +kernel
theorem witness_AdaptWithANaNProductSkipsAppliesOrFaults :
    overflowing.DirectAccess ∧ overflowing.dl.length = overflowing.w.length ∧
    (let error := overflowing.num.fsub 0x41000000 (overflowing.num.sum (List.zipWith overflowing.num.fmul overflowing.w overflowing.dl))
     let energy := overflowing.num.sum (overflowing.dl.map fun x => overflowing.num.fmul x x)
     let se := overflowing.num.fmul (overflowing.num.fdiv overflowing.mu (overflowing.num.fadd overflowing.epsr energy)) error
     ∃ d ∈ overflowing.dl.map fun x => overflowing.num.fmul se x, overflowing.num.isnan (overflowing.num.fabs (overflowing.num.fmul d error)) = true) := by
  refine ⟨direct rfl rfl, rfl, ?_⟩
  intro error energy se
  have hse : se = 0x7F800000 := overflow_se
  have hz : overflowing.num.fmul 0x7F800000 0 = someNaN 2 0x7F800000 0 := rfl
  exact ⟨overflowing.num.fmul se 0, List.mem_map.2 ⟨0, .head _, rfl⟩,
    (isNaN_fabs _).trans (isNaN_fmul_left (by rw [hse, hz]; exact isNaN_someNaN ..) _)⟩
/-- The lower threshold at the novelty itself (vector A4's strict comparison), the higher at the largest sample. -/
theorem witness_ThresholdDecidesTheWeightsAlone :
    held.DirectAccess ∧ held.dl.length = held.w.length ∧
    adaptTerms held.num held.mu held.epsr held.w held.dl 0x40000000 = termsA ∧ (∀ x ∈ termsA.t, isNaN x = false) ∧
    flt (maxSeq fgt termsA.t) 0x4024924A = false ∧ flt (maxSeq fgt termsA.t) 0x7F7FFFFF = true ∧
    (∀ x ∈ List.zipWith fadd held.w termsA.dw, isNaN x = false) :=
  ⟨direct rfl rfl, rfl, termsA_eq, termsA_numbers.1, by rw [termsA_numbers.2.1]; decide +kernel,
    by rw [termsA_numbers.2.1]; decide +kernel, termsA_numbers.2.2⟩
/-- Vector A2, with a weight `−0.0`. -/
theorem silent_step : binary32.fmul (binary32.fdiv held.mu held.epsr) 0x40000000 = 0x40000000 := by decide +kernel
theorem witness_SilentWindowKeepsTheWeightsNumerically :
    (idle .ctl [0x3F000000, 0x80000000]).DirectAccess ∧ (idle .ctl [0x3F000000, 0x80000000]).cfg.num = .binary32 ∧
    [(0 : Sample), 0] = List.replicate 2 0 ∧
    (∀ x ∈ [(0x3F000000 : Sample), 0x80000000], Config.IsFinite x) ∧ Config.IsFinite (0x40000000 : Sample) ∧
    Config.IsFinite held.mu ∧ Config.IsFinite held.epsr ∧ 0 < scaled held.epsr ∧
    Config.IsFinite (binary32.fmul (binary32.fdiv held.mu held.epsr) 0x40000000) := by
  rw [silent_step]
  exact ⟨direct rfl rfl, rfl, rfl, finites (by decide), by decide, by decide, by decide, by decide, by decide⟩
theorem witness_WeightsChangeOnlyByAdaptAndConstruction : ∃ t, exec (.csrw 4 0) held = .next t := ⟨_, rfl⟩
theorem witness_EnginitConstructsTheEngine : held.DirectAccess := direct rfl rfl
/-- No sample at one input; and both inputs loaded with `OUT` full (vector G1). -/
theorem witness_IterWithoutWorkAnswersNoWork :
    (held.DirectAccess ∧ held.mic.buf = []) ∧
    ({ loaded with out := full }.DirectAccess ∧ { loaded with out := full }.out.cap ≤ { loaded with out := full }.out.buf.length) :=
  ⟨⟨direct rfl rfl, rfl⟩, direct rfl rfl, by decide⟩

/-- The hypotheses of an iteration with work. -/
theorem loaded_iterates :
    loaded.DirectAccess ∧ loaded.mic.buf = 0x3F800000 :: [] ∧ loaded.ref.buf = 0x3F800000 :: [] ∧
    loaded.out.buf.length < loaded.out.cap ∧ (loaded.dl.tail ++ [(0x3F800000 : Sample)]).length = loaded.w.length ∧
    (adapt loaded.num loaded.mu loaded.epsr loaded.thr loaded.w (loaded.dl.tail ++ [0x3F800000]) 0x3F800000 loaded.draws).nan = false :=
  ⟨direct rfl rfl, rfl, rfl, by decide, by decide, by decide +kernel⟩
theorem loaded_no_fault_on_idle :
    (adaptOfIteration 0x3F800000 0x3F800000 { running .drain with sched := .idle, curPort := .ctl }).nan = false := by
  decide +kernel

/-- An iteration with work and no fault is an `ITER` answered OK. -/
theorem iter_completes {s : State} {m r : Sample} {ms rs : List Sample} (d : s.DirectAccess) (hm : s.mic.buf = m :: ms)
    (hr : s.ref.buf = r :: rs) (ho : s.out.buf.length < s.out.cap) (hl : (shiftIn s.dl r).length = s.w.length)
    (hn : (adaptOfIteration m r s).nan = false) :
    ∃ t filtered novelty, exec .iter s = .next (State.reply t .ok novelty filtered) := by
  have hi := iterate_of_work hm hr ho
  rw [if_pos hl, if_neg (by rw [hn]; decide)] at hi
  have hg : exec .iter s = iterCommand s := gate_held (by simp [engineOnly, d.port]) d.held
  exact ⟨_, _, _, by rw [hg]; unfold iterCommand; rw [hi]⟩

/-- Telemetry off; `loaded` is off the stride as well. -/
theorem witness_IterRunsOneIteration :
    loaded.DirectAccess ∧ loaded.mic.buf = 0x3F800000 :: [] ∧ loaded.ref.buf = 0x3F800000 :: [] ∧
    loaded.out.buf.length < loaded.out.cap ∧ (loaded.dl.tail ++ [(0x3F800000 : Sample)]).length = loaded.w.length ∧
    (adapt loaded.num loaded.mu loaded.epsr loaded.thr loaded.w (loaded.dl.tail ++ [0x3F800000]) 0x3F800000 loaded.draws).nan = false ∧
    loaded.telemEn = false ∧ (loaded.iter + 1) % loaded.cfg.tstride ≠ 0 := by
  obtain ⟨h1, h2, h3, h4, h5, h6⟩ := loaded_iterates
  exact ⟨h1, h2, h3, h4, h5, h6, rfl, by decide⟩
/-- One iteration short of the stride, telemetry enabled. -/
def timed : State := { loaded with telemEn := true, iter := 1 }
theorem witness_TelemetryWordOnTheStride :
    timed.DirectAccess ∧ timed.mic.buf = 0x3F800000 :: [] ∧ timed.ref.buf = 0x3F800000 :: [] ∧
    timed.out.buf.length < timed.out.cap ∧ (timed.dl.tail ++ [(0x3F800000 : Sample)]).length = timed.w.length ∧
    (adapt timed.num timed.mu timed.epsr timed.thr timed.w (timed.dl.tail ++ [0x3F800000]) 0x3F800000 timed.draws).nan = false ∧
    timed.telemEn = true ∧ (timed.iter + 1) % timed.cfg.tstride = 0 :=
  ⟨direct rfl rfl, rfl, rfl, by decide, by decide, by decide +kernel, rfl, by decide⟩
theorem witness_IterFaultStopsAfterStepThree :
    loaded.DirectAccess ∧ loaded.mic.buf = 0x3F800000 :: [] ∧ loaded.ref.buf = 0x3F800000 :: [] ∧
    loaded.out.buf.length < loaded.out.cap ∧ (loaded.dl.tail ++ [(0x3F800000 : Sample)]).length = loaded.w.length :=
  ⟨direct rfl rfl, rfl, rfl, by decide, by decide⟩
/-- `OUT` exactly at the low-water mark: 5 * 2 = 1 * 10. -/
def level : State := { draining with out := { cap := 10, buf := [0x3F800000, 0x3F800000] } }
/-- No work and a low `OUT`; no work and `OUT` at the mark; and one pair of samples to drain. -/
theorem witness_RunonceDrainsRefillsAndAnswersItsCounts :
    (Inv draining ∧ draining.turns = [] ∧ draining.ctl = .runOnce { phase := .drain, n := 3, z := 0 } ∧ draining.mic.buf = [] ∧
      draining.cfg.lowDen * draining.out.buf.length < draining.cfg.lowNum * draining.out.cap) ∧
    (Inv level ∧ level.turns = [] ∧ level.ctl = .runOnce { phase := .drain, n := 3, z := 0 } ∧ level.mic.buf = [] ∧
      level.cfg.lowDen * level.out.buf.length = level.cfg.lowNum * level.out.cap) ∧
    (Inv passing ∧ passing.turns = [] ∧ passing.ctl = .runOnce { phase := .drain, n := 2, z := 0 } ∧
      passing.mic.buf.length = 1 ∧ passing.ref.buf.length = 1 ∧ passing.out.buf.length < passing.out.cap) :=
  ⟨⟨inv_draining, rfl, rfl, rfl, by decide⟩, ⟨by apply inv_of <;> decide, rfl, rfl, rfl, by decide⟩,
    inv_passing, rfl, rfl, by decide⟩
/-- A later pass of a `RUNONCE` after a command of the microphone's callback. -/
def interleaved : State := { passing with curPort := .mic }
/-- The first pass and a later one, each without work and with it; the later one with work follows a callback's command. -/
theorem witness_RunonceStartsItsDrainLoop :
    (held.sched.held = true ∧ held.curPort = .ctl ∧ held.mic.buf = []) ∧
    (draining.sched.held = true ∧ draining.ctl = .runOnce { phase := .drain, n := 3, z := 0 } ∧ draining.mic.buf = []) ∧
    (loaded.sched.held = true ∧ loaded.curPort = .ctl ∧ loaded.mic.buf = 0x3F800000 :: [] ∧ loaded.ref.buf = 0x3F800000 :: [] ∧
      loaded.out.buf.length < loaded.out.cap ∧ (loaded.dl.tail ++ [(0x3F800000 : Sample)]).length = loaded.w.length) ∧
    (interleaved.sched.held = true ∧ interleaved.curPort = .mic ∧
      interleaved.ctl = .runOnce { phase := .drain, n := 2, z := 0 } ∧ interleaved.mic.buf = 0x3F800000 :: [] ∧
      interleaved.ref.buf = 0x3F800000 :: [] ∧ interleaved.out.buf.length < interleaved.out.cap ∧
      (interleaved.dl.tail ++ [(0x3F800000 : Sample)]).length = interleaved.w.length) :=
  ⟨⟨rfl, rfl, rfl⟩, ⟨rfl, rfl, rfl⟩, ⟨rfl, rfl, rfl, rfl, by decide, by decide⟩, rfl, rfl, rfl, rfl, rfl, by decide, by decide⟩
theorem witness_OutputOverrunNeverHappens : (∃ t, step (running .check) = .next t) ∧ (running .check).outOverrun = false :=
  ⟨⟨_, rfl⟩, rfl⟩
/-- The smallest capacity, full; and the largest capacity. -/
theorem witness_FillRatiosAreInTheUnitInterval :
    (1 ≤ ({ cap := 1, buf := [0] } : Fifo).cap ∧ ({ cap := 1, buf := [0] } : Fifo).cap < 2 ^ 32 ∧
      ({ cap := 1, buf := [0] } : Fifo).buf.length ≤ ({ cap := 1, buf := [0] } : Fifo).cap) ∧
    (1 ≤ ({ cap := 2 ^ 32 - 1, buf := [] } : Fifo).cap ∧ ({ cap := 2 ^ 32 - 1, buf := [] } : Fifo).cap < 2 ^ 32 ∧
      ({ cap := 2 ^ 32 - 1, buf := [] } : Fifo).buf.length ≤ ({ cap := 2 ^ 32 - 1, buf := [] } : Fifo).cap) := by decide
theorem witness_StartStartsTheEngineThread :
    (held.curPort = .ctl ∧ held.sched = .idle) ∧ ((running .drain).curPort = .ctl ∧ (running .drain).sched = .running) ∧
    ((broken .ctl).curPort = .ctl ∧ (broken .ctl).sched = .faulted) := by decide
theorem witness_StopRequestsAndWaits :
    (stopping .drain).ctl = .waitStop ∧ ((running .drain).curPort = .ctl ∧ (running .drain).sched = .running) ∧
    (held.curPort = .ctl ∧ held.sched = .idle) ∧ ((broken .ctl).curPort = .ctl ∧ (broken .ctl).sched = .faulted) := by decide
theorem witness_UnparkIsBestEffort :
    { running .parked with curPort := .mic }.curPort = .mic ∧ ((idle .mic wA).curPort = .mic ∧ (idle .mic wA).sched = .idle) ∧
    ((broken .mic).curPort = .mic ∧ (broken .mic).sched = .faulted) := by decide
theorem witness_CheckStopsOrBeginsAPass :
    ((stopping .check).sched = .stopRequested ∧ (stopping .check).ph = .check ∧ (stopping .check).killPending = true ∧
      (stopping .check).ctl = .waitStop) ∧
    ((running .check).sched = .running ∧ (running .check).ph = .check ∧ (running .check).killPending = false) := by decide
theorem witness_DrainRunsIterationsUntilNoWork :
    ((stopping .drain).sched = .stopRequested ∧ (stopping .drain).ph = .drain ∧ (stopping .drain).mic.buf = []) ∧
    ((running .drain).sched = .running ∧ (running .drain).ph = .drain ∧
      ∃ t filtered novelty, exec .iter { running .drain with sched := .idle, curPort := .ctl } =
        .next (State.reply t .ok novelty filtered)) :=
  ⟨by decide, rfl, rfl, iter_completes (direct rfl rfl) rfl rfl (by decide) (by decide) loaded_no_fault_on_idle⟩
theorem witness_FaultWhileStoppingAnswersPanic :
    (running .drain).sched = .running ∧ (running .drain).ph = .drain ∧ (running .drain).mic.buf = 0x3F800000 :: [] ∧
    (running .drain).ref.buf = 0x3F800000 :: [] ∧ (running .drain).out.buf.length < (running .drain).out.cap ∧
    ((running .drain).dl.tail ++ [(0x3F800000 : Sample)]).length = (running .drain).w.length := by decide
/-- `OUT` with `k` samples of ten. -/
def outOf (k : Nat) (s : State) : State := { s with out := { cap := 10, buf := zeros k } }
/-- One sample of ten is low, two are not (vector G4); one below `REFILL`, and at it. -/
theorem witness_LowOutputIsRefilledWithSilence :
    ((outOf 1 (running .lowtest)).ph = .lowtest ∧
      (outOf 1 (running .lowtest)).cfg.lowDen * (outOf 1 (running .lowtest)).out.buf.length <
        (outOf 1 (running .lowtest)).cfg.lowNum * (outOf 1 (running .lowtest)).out.cap) ∧
    ((outOf 2 (stopping .lowtest)).ph = .lowtest ∧
      (outOf 2 (stopping .lowtest)).cfg.lowNum * (outOf 2 (stopping .lowtest)).out.cap ≤
        (outOf 2 (stopping .lowtest)).cfg.lowDen * (outOf 2 (stopping .lowtest)).out.buf.length) ∧
    ((outOf 4 (running .refill)).ph = .refill ∧ (outOf 4 (running .refill)).out.buf.length < (outOf 4 (running .refill)).cfg.refill ∧
      (outOf 4 (running .refill)).cfg.refill ≤ (outOf 4 (running .refill)).out.cap) ∧
    ((outOf 5 (stopping .refill)).ph = .refill ∧
      (outOf 5 (stopping .refill)).cfg.refill ≤ (outOf 5 (stopping .refill)).out.buf.length) := by decide
theorem witness_DecideParksAndTheWakeIsAlwaysEnabled :
    { running .decide with worked := true }.ph = .decide ∧ { running .decide with token := true }.worked = false ∧
    ((running .decide).worked = false ∧ (running .decide).token = false) ∧ (stopping .parked).ph = .parked := by decide
theorem witness_TokenChangesNoComputedValue : ∃ t, engineStep (running .decide) = .next t := ⟨_, rfl⟩
/-- The last register of the table and the first number beyond. -/
theorem witness_CsrrAnswersTheRegister :
    held.curPort = .ctl ∧ (broken .ctl).curPort = .ctl ∧ ¬ 0x19 < (0x19 : Nat) ∧ 0x19 < (0x1A : Nat) := by decide
theorem witness_CsrwWritesCtrlAndThrOnly : held.DirectAccess ∧ (0 : Nat) ≠ 0x01 ∧ (0 : Nat) ≠ 0x04 :=
  ⟨direct rfl rfl, by decide⟩
theorem witness_SchedulerTransitionsAreThoseListed :
    Inv (running .drain) ∧ Inv (stopping .parked) ∧ (∃ t, step (stopping .parked) = .next t) ∧
    (stopping .parked).turns.head? ≠ some .reset := ⟨inv_running, inv_stopping, ⟨_, rfl⟩, by decide⟩
theorem witness_OnlyResetLeavesTheFault :
    Inv (broken .ctl) ∧ (broken .ctl).sched = .faulted ∧ (∃ t, step (broken .ctl) = .next t) ∧
    (broken .ctl).turns.head? ≠ some .reset := ⟨inv_broken, rfl, ⟨_, rfl⟩, by decide⟩
/-- The engine thread alone, with no words. -/
def engineAlone : Schedule := fun _ => { words := { mic := [], ref := [], out := [], ctl := [] }, turn := .agent .eng }
/-- Wake, then the check that answers the waiting `STOP` (R229, R224, R223). -/
theorem test_engine_turns_answer_stop :
    gives (follow engineAlone (stopping .parked) 1) (fun t => t.sched = .stopRequested && t.ph = .check) = true ∧
    gives (follow engineAlone (stopping .parked) 2) (fun t => t.sched = .stopped && t.ctl = .ready) = true := by decide
/-- The schedule that keeps an input empty: the engine thread's steps add nothing to it. -/
theorem witness_StopReturnsWithoutData :
    (Inv (stopping .parked) ∧ (stopping .parked).sched = .stopRequested ∧ (stopping .parked).turns = [] ∧
      (stopping .parked).mic.buf = []) ∧
    WeaklyFair engineAlone (stopping .parked) ∧
    (∀ k, (engineAlone k).turn ≠ .reset ∧ (engineAlone k).turn ≠ .agent .out) ∧
    (∀ k t, follow engineAlone (stopping .parked) k = .next t → t.mic.buf = [] ∨ t.ref.buf = []) := by
  refine ⟨⟨inv_stopping, rfl, rfl, rfl⟩, fun k => ⟨k, le_rfl, .inl rfl⟩, fun _ => by simp [engineAlone], ?_⟩
  refine follow_induction (.inl rfl) fun k t u ht hu => ?_
  rw [step_offer_engine rfl] at hu
  exact ht.imp (engineStep_inputs hu).1 (engineStep_inputs hu).2
theorem witness_CallbackPortsCannotTouchTheEngine :
    (idle .mic wA).curPort ≠ .ctl ∧ (∃ t, exec (.pushMic 1) (idle .mic wA) = .next t) ∧ (idle .out wA).curPort ≠ .mic ∧
    (idle .mic wA).curPort ≠ .ref ∧ (idle .mic wA).curPort ≠ .out ∧ (idle .mic wA).curPort = .mic ∧
    (∃ t, exec (.pushRef 1) (idle .ref wA) = .next t) ∧ (idle .ref wA).curPort = .ref ∧
    (∃ t, exec .popOut { idle .out wA with out := full } = .next t) ∧ { idle .out wA with out := full }.curPort = .out :=
  ⟨by decide, ⟨_, rfl⟩, by decide, by decide, by decide, rfl, ⟨_, rfl⟩, rfl, ⟨_, rfl⟩, rfl⟩
theorem witness_HistoriesGrowAndFlagsStick :
    (∃ t, step (broken .ctl) = .next t) ∧ (broken .ctl).turns.head? ≠ some .reset ∧ (broken .ctl).fault = true ∧
    { running .drain with starved := true }.starved = true := ⟨⟨_, rfl⟩, by decide⟩
theorem witness_ParametersAndCapacitiesAreConstant :
    (∃ t, step (running .check) = .next t) ∧ (running .check).turns.head? ≠ some .reset := ⟨⟨_, rfl⟩, by decide⟩
theorem witness_EveryStepKeepsTheInvariant : Inv held ∧ Inv draining ∧ Inv (broken .ctl) := ⟨inv_held, inv_draining, inv_broken⟩
/-- A tie: 2^24 + 1 lies half-way between two samples; the even one is the result. 1.0 and -2.0 are finite; `+0.0` and `-0.0`
have the sum and the difference zero. -/
theorem witness_RoundingIsToNearestEven :
    (0 < 1 ∧ roundLow (2 ^ 24 + 1) 1 < infLow ∧ 0x01000001 < infLow ∧ roundLow (2 ^ 24 + 1) 1 = 0x01000000) ∧
    Config.IsFinite 0x3F800000 ∧ Config.IsFinite 0xC0000000 ∧ scaled 0xC0000000 ≠ 0 ∧
    Config.IsFinite 0x00000000 ∧ Config.IsFinite 0x80000000 ∧ scaled 0x00000000 + scaled 0x80000000 = 0 ∧
    scaled 0x00000000 - scaled 0x80000000 = 0 := by decide
/-- Two NaNs; then numbers with an infinity or a zero among them on which each operation gives a number. -/
theorem witness_NaNsPropagateAndCompareFalse :
    (binary32.isnan 0x7FC00000 = true ∧ binary32.isnan 0xFF800001 = true) ∧
    (binary32.isnan 0x7F800000 = false ∧ binary32.isnan 0x3F800000 = false ∧ isInf 0x7F800000 = true ∧
      scaled (0x00000000 : Sample) = 0) ∧
    binary32.isnan (binary32.fadd 0x7F800000 0x3F800000) = false ∧
    binary32.isnan (binary32.fadd 0x3F800000 0x7F800000) = false ∧
    binary32.isnan (binary32.fsub 0x7F800000 0x3F800000) = false ∧
    binary32.isnan (binary32.fsub 0x3F800000 0x7F800000) = false ∧
    binary32.isnan (binary32.fmul 0x7F800000 0x3F800000) = false ∧
    binary32.isnan (binary32.fdiv 0x3F800000 0x00000000) = false ∧
    binary32.isnan (binary32.fdiv 0x3F800000 0x7F800000) = false := by decide

end Sys2Proof.Tests
end

section
/-! Samples as numbers: the magnitude as a strictly increasing function of the low 31 bits, signs, zeros and infinities. -/

namespace Sys2Proof.Machine

/-! ### The magnitude of the low 31 bits -/

/-- The magnitude that the low bits `k` stand for, in units of 2^-149: the exponent that the quantum has, and the multiple of
it. Defined for every natural number, so that rounding can be followed beyond the largest finite sample. -/
def lowValue (k : Nat) : Nat := (k - (k / 2 ^ 23 - 1) * 2 ^ 23) * 2 ^ (k / 2 ^ 23 - 1)

/-- As `magnitude_assembled`, for low bits of any size: `q = 2^24` carries into the next exponent. -/
theorem lowValue_assembled {q e : Nat} (hq : q ≤ 2 ^ 24) (he : e = 0 ∨ 2 ^ 23 ≤ q) :
    lowValue (q + e * 2 ^ 23) = q * 2 ^ e := by
  unfold lowValue
  by_cases h24 : q = 2 ^ 24
  · rw [show (q + e * 2 ^ 23) / 2 ^ 23 - 1 = e + 1 by omega,
      show q + e * 2 ^ 23 - (e + 1) * 2 ^ 23 = 2 ^ 23 by omega, h24]
    ring
  · rw [show (q + e * 2 ^ 23) / 2 ^ 23 - 1 = e by omega, Nat.add_sub_cancel]

/-- Every number of low bits is a quantum and a multiple of it of at most 24 bits. -/
theorem exists_assembled (k : Nat) : ∃ q e, k = q + e * 2 ^ 23 ∧ q < 2 ^ 24 ∧ (e = 0 ∨ 2 ^ 23 ≤ q) :=
  ⟨k - (k / 2 ^ 23 - 1) * 2 ^ 23, k / 2 ^ 23 - 1, by omega, by omega, by omega⟩

theorem lowValue_strictMono : StrictMono lowValue := by
  refine strictMono_nat_of_lt_succ fun k => ?_
  obtain ⟨q, e, rfl, hq, he⟩ := exists_assembled k
  rw [lowValue_assembled hq.le he, show q + e * 2 ^ 23 + 1 = (q + 1) + e * 2 ^ 23 by omega,
    lowValue_assembled hq (by omega)]
  exact Nat.mul_lt_mul_of_pos_right (Nat.lt_succ_self q) (by positivity)

@[simp] theorem lowValue_zero : lowValue 0 = 0 := rfl

theorem lowValue_eq_zero_iff {k : Nat} : lowValue k = 0 ↔ k = 0 :=
  lowValue_strictMono.injective.eq_iff' lowValue_zero

/-! ### Fields of the low 31 bits -/

/-- The low 31 bits of a sample. -/
def lowBits (a : Sample) : Nat := a.toNat % 2 ^ 31

theorem expField_eq_lowBits (a : Sample) : expField a = lowBits a / 2 ^ 23 := by
  unfold expField lowBits; omega

theorem fracField_eq_lowBits (a : Sample) : fracField a = lowBits a % 2 ^ 23 := by
  unfold fracField lowBits; omega

theorem magnitude_eq (a : Sample) : magnitude a = lowValue (lowBits a) := by
  unfold magnitude lowValue
  rw [expField_eq_lowBits, fracField_eq_lowBits]
  split
  · rename_i h
    simp only [h, Nat.zero_sub, Nat.zero_mul, Nat.sub_zero, Nat.pow_zero, Nat.mul_one]
    omega
  · congr 1; omega

theorem magnitude_eq_zero_iff (a : Sample) : magnitude a = 0 ↔ lowBits a = 0 := by
  rw [magnitude_eq, lowValue_eq_zero_iff]

theorem isInf_iff (a : Sample) : isInf a = true ↔ lowBits a = infLow := by
  simp only [isInf, expField_eq_lowBits, fracField_eq_lowBits, Bool.and_eq_true, decide_eq_true_eq, infLow]
  omega

theorem signBit_eq (a : Sample) : signBit a = decide (2 ^ 31 ≤ a.toNat) := BitVec.msb_eq_decide a

/-- A sample is its sign and its low 31 bits. -/
theorem eq_of_signBit_of_lowBits {a b : Sample} (hs : signBit a = signBit b) (hl : lowBits a = lowBits b) : a = b := by
  rw [signBit_eq, signBit_eq, decide_eq_decide] at hs
  unfold lowBits at hl
  apply BitVec.eq_of_toNat_eq
  omega

theorem lowBits_withSign {neg : Bool} {low : Nat} (h : low < 2 ^ 31) : lowBits (withSign neg low) = low := by
  unfold lowBits; rw [withSign_toNat h]; cases neg <;> (simp; omega)

/-! ### Values -/

@[simp] theorem natAbs_scaled (a : Sample) : (scaled a).natAbs = magnitude a := by
  unfold scaled; split <;> simp

theorem scaled_eq_zero_iff (a : Sample) : scaled a = 0 ↔ magnitude a = 0 := by
  rw [← Int.natAbs_eq_zero, natAbs_scaled]

theorem scaled_pos_iff (a : Sample) : 0 < scaled a ↔ signBit a = false ∧ magnitude a ≠ 0 := by
  unfold scaled; cases signBit a <;> simp; omega

/-- Off zero the sign of a sample is the sign of its value. -/
theorem signBit_of_scaled_ne_zero {a : Sample} (h : scaled a ≠ 0) : signBit a = decide (scaled a < 0) := by
  cases hs : signBit a
  · simp [scaled, hs]
  · simp only [scaled, hs, if_true] at h ⊢
    exact (decide_eq_true (by omega)).symm

/-! ### Turning the sign -/

theorem toNat_negate (a : Sample) : (negate a).toNat = a.toNat ^^^ 2 ^ 31 := BitVec.toNat_xor ..

@[simp] theorem signBit_negate (a : Sample) : signBit (negate a) = !signBit a := by
  rw [signBit, negate, BitVec.msb_xor, show (0x80000000 : Sample).msb = true by decide, Bool.xor_true]; rfl

@[simp] theorem lowBits_negate (a : Sample) : lowBits (negate a) = lowBits a := by
  unfold lowBits; rw [toNat_negate, Nat.xor_mod_two_pow]; simp

@[simp] theorem isInf_negate (a : Sample) : isInf (negate a) = isInf a := by
  rw [Bool.eq_iff_iff, isInf_iff, isInf_iff, lowBits_negate]

@[simp] theorem isNaN_negate (a : Sample) : isNaN (negate a) = isNaN a := by
  simp [isNaN, expField_eq_lowBits, fracField_eq_lowBits]

@[simp] theorem magnitude_negate (a : Sample) : magnitude (negate a) = magnitude a := by
  rw [magnitude_eq, magnitude_eq, lowBits_negate]

@[simp] theorem scaled_negate (a : Sample) : scaled (negate a) = -scaled a := by
  unfold scaled; rw [signBit_negate, magnitude_negate]; cases signBit a <;> simp

end Sys2Proof.Machine
end

section
/-! Rounding (R13). Truncation to the quantum finds the two neighbours of the exact quotient among the magnitudes; `roundLow`
takes the nearer, and on a tie the even one. That it is nearest among all, and where it overflows, follows from
`lowValue_strictMono`. -/

namespace Sys2Proof.Machine

/-! ### The neighbours of the exact quotient -/

/-- The exponent of the quantum that `roundLow` uses. -/
def quantumExp (n d : Nat) : Nat := Nat.log2 (n / d) - 23

/-- The quotient `n / d` truncated to a multiple of the quantum. -/
def truncated (n d : Nat) : Nat := n / (d * 2 ^ quantumExp n d)

/-- The low bits of the truncated quotient. -/
def floorLow (n d : Nat) : Nat := truncated n d + quantumExp n d * 2 ^ 23

theorem truncated_lt (n d : Nat) : truncated n d < 2 ^ 24 := by
  rw [truncated, ← Nat.div_div_eq_div_mul, Nat.div_lt_iff_lt_mul (by positivity), ← Nat.pow_add]
  calc n / d < 2 ^ (Nat.log2 (n / d) + 1) := Nat.lt_log2_self
    _ ≤ 2 ^ (24 + quantumExp n d) := Nat.pow_le_pow_right (by decide) (by unfold quantumExp; omega)

/-- The truncated quotient has 24 bits unless the quantum is the least. -/
theorem le_truncated (n d : Nat) : quantumExp n d = 0 ∨ 2 ^ 23 ≤ truncated n d := by
  refine or_iff_not_imp_left.2 fun he => ?_
  have hlog : Nat.log2 (n / d) = 23 + quantumExp n d := by unfold quantumExp at *; omega
  have hne : n / d ≠ 0 := fun hz => by simp [quantumExp, hz] at he
  rw [truncated, ← Nat.div_div_eq_div_mul, Nat.le_div_iff_mul_le (by positivity), ← Nat.pow_add, ← hlog]
  exact Nat.log2_self_le hne

/-- The magnitude next below the quotient. -/
theorem mul_lowValue_floorLow (n d : Nat) :
    d * lowValue (floorLow n d) = d * 2 ^ quantumExp n d * truncated n d := by
  rw [floorLow, lowValue_assembled (truncated_lt n d).le (le_truncated n d)]; ring

/-- The magnitude next above the quotient: one quantum more. -/
theorem mul_lowValue_floorLow_succ (n d : Nat) :
    d * lowValue (floorLow n d + 1) = d * 2 ^ quantumExp n d * truncated n d + d * 2 ^ quantumExp n d := by
  rw [floorLow, Nat.add_right_comm,
    lowValue_assembled (q := truncated n d + 1) (truncated_lt n d) ((le_truncated n d).imp_right Nat.le_succ_of_le)]
  ring

theorem floorLow_neighbours {n d : Nat} (hd : 0 < d) :
    d * lowValue (floorLow n d) ≤ n ∧ n < d * lowValue (floorLow n d + 1) := by
  have hmod := Nat.mod_lt n (show 0 < d * 2 ^ quantumExp n d by positivity)
  have hdiv := Nat.div_add_mod n (d * 2 ^ quantumExp n d)
  rw [mul_lowValue_floorLow, mul_lowValue_floorLow_succ, truncated]
  omega

/-! ### Nearest, ties to even -/

theorem mul_lowValue_strictMono {d : Nat} (hd : 0 < d) : StrictMono fun k => d * lowValue k :=
  fun _ _ h => Nat.mul_lt_mul_of_pos_left (lowValue_strictMono h) hd

/-- The distance of `n / d` from the magnitude of the low bits `k`, times `d`. -/
def distance (n d k : Nat) : Nat := ((n : Int) - (d * lowValue k : Nat)).natAbs

/-- No low bits, of an infinity or beyond included, are nearer to `n / d` than `k`, and `k` is even if others are as near. -/
structure IsNearestEven (n d k : Nat) : Prop where
  nearest : ∀ j, distance n d k ≤ distance n d j
  even : ∀ j, j ≠ k → distance n d k = distance n d j → k % 2 = 0

/-- Of the two neighbours `f` and `f + 1` the nearer one, on a tie the even one, is the nearest of all. -/
theorem isNearestEven_of_neighbours {n d f k : Nat} (hd : 0 < d)
    (hf : d * lowValue f ≤ n ∧ n < d * lowValue (f + 1))
    (hk : k = f ∧ 2 * n ≤ d * lowValue f + d * lowValue (f + 1) ∨
      k = f + 1 ∧ d * lowValue f + d * lowValue (f + 1) ≤ 2 * n)
    (heven : 2 * n = d * lowValue f + d * lowValue (f + 1) → k % 2 = 0) : IsNearestEven n d k := by
  have hmono := mul_lowValue_strictMono hd
  have key : ∀ j, distance n d k ≤ distance n d j ∧ (j ≠ k → distance n d k = distance n d j → k % 2 = 0) := by
    intro j
    have hjk : j ≠ k → d * lowValue j ≠ d * lowValue k := fun h h' => h (hmono.injective h')
    have hj : d * lowValue j ≤ d * lowValue f ∨ d * lowValue (f + 1) ≤ d * lowValue j :=
      (Nat.lt_or_ge f j).symm.imp (fun h => hmono.monotone h) (fun h => hmono.monotone h)
    unfold distance
    rcases hk with ⟨rfl, hk⟩ | ⟨rfl, hk⟩ <;> omega
  exact ⟨fun j => (key j).1, fun j => (key j).2⟩

/-- `roundLow` is the nearest of all low bits, ties to even, cut off at infinity. -/
theorem roundLow_isNearestEven {n d : Nat} (hd : 0 < d) :
    ∃ k, roundLow n d = min k infLow ∧ IsNearestEven n d k := by
  have hdiv := Nat.div_add_mod n (d * 2 ^ quantumExp n d)
  have hpar : floorLow n d % 2 = truncated n d % 2 := by unfold floorLow; omega
  have hlow := mul_lowValue_floorLow n d
  have hhigh := mul_lowValue_floorLow_succ n d
  have near := fun k => isNearestEven_of_neighbours (k := k) hd (floorLow_neighbours (n := n) hd)
  change d * 2 ^ quantumExp n d * truncated n d + _ = n at hdiv
  by_cases hup : d * 2 ^ quantumExp n d < 2 * (n % (d * 2 ^ quantumExp n d)) ∨
      2 * (n % (d * 2 ^ quantumExp n d)) = d * 2 ^ quantumExp n d ∧ truncated n d % 2 = 1
  · refine ⟨floorLow n d + 1, ?_, near _ (.inr ⟨rfl, ?_⟩) ?_⟩
    · rw [floorLow, Nat.add_right_comm]
      exact congrArg (fun q => min (q + quantumExp n d * 2 ^ 23) infLow) (if_pos hup)
    all_goals omega
  · refine ⟨floorLow n d, ?_, near _ (.inl ⟨rfl, ?_⟩) ?_⟩
    · exact congrArg (fun q => min (q + quantumExp n d * 2 ^ 23) infLow) (if_neg hup)
    all_goals omega

/-- A finite result of rounding is the nearest of all low bits. -/
theorem isNearestEven_of_roundLow_lt {n d : Nat} (hd : 0 < d) (h : roundLow n d < infLow) :
    IsNearestEven n d (roundLow n d) := by
  obtain ⟨k, hk, hnear⟩ := roundLow_isNearestEven (n := n) hd
  rwa [show roundLow n d = k by omega]

/-- Rounding passes an odd `m` exactly from half-way between `m` and `m + 1` on. -/
theorem IsNearestEven.lt_iff {n d k m : Nat} (hd : 0 < d) (hk : IsNearestEven n d k) (hodd : m % 2 = 1) :
    m < k ↔ d * lowValue m + d * lowValue (m + 1) ≤ 2 * n := by
  have hmono := mul_lowValue_strictMono hd
  have hstep : d * lowValue m < d * lowValue (m + 1) := hmono (Nat.lt_succ_self m)
  constructor
  · intro hlt
    have hle : d * lowValue (m + 1) ≤ d * lowValue k := hmono.monotone hlt
    have hnearest := hk.nearest m
    unfold distance at hnearest
    omega
  · refine fun hmid => Nat.lt_of_not_le fun hle => ?_
    have hle' : d * lowValue k ≤ d * lowValue m := hmono.monotone hle
    have hnearest := hk.nearest (m + 1)
    have heven := hk.even (m + 1) (by omega)
    unfold distance at hnearest heven
    have hkm : k = m := hmono.injective (show d * lowValue k = d * lowValue m by omega)
    omega

/-- The overflow threshold: half a quantum above the largest finite sample, whose low bits are odd. -/
theorem roundLow_eq_infLow_iff {n d : Nat} (hd : 0 < d) :
    roundLow n d = infLow ↔ (2 ^ 25 - 1) * 2 ^ 252 * d ≤ n := by
  obtain ⟨k, hk, hnear⟩ := roundLow_isNearestEven (n := n) hd
  have hmid : d * lowValue 0x7F7FFFFF + d * lowValue (0x7F7FFFFF + 1) = 2 * ((2 ^ 25 - 1) * 2 ^ 252 * d) := by
    rw [show lowValue 0x7F7FFFFF = (2 ^ 24 - 1) * 2 ^ 253 from rfl, show lowValue (0x7F7FFFFF + 1) = 2 ^ 24 * 2 ^ 253 from rfl]
    ring
  calc roundLow n d = infLow ↔ 0x7F7FFFFF < k := by rw [hk, min_eq_right_iff]; exact Nat.succ_le_iff
    _ ↔ 2 * ((2 ^ 25 - 1) * 2 ^ 252 * d) ≤ 2 * n := by rw [← hmid]; exact hnear.lt_iff hd rfl
    _ ↔ (2 ^ 25 - 1) * 2 ^ 252 * d ≤ n := Nat.mul_le_mul_left_iff (by decide)

/-! ### Rounding with a sign -/

theorem roundLow_lt (n d : Nat) : roundLow n d < 2 ^ 31 := (roundLow_le n d).trans_lt (by decide)

theorem lowBits_withSign_roundLow (neg : Bool) (n d : Nat) : lowBits (withSign neg (roundLow n d)) = roundLow n d :=
  lowBits_withSign (roundLow_lt n d)

theorem signBit_withSign_roundLow (neg : Bool) (n d : Nat) : signBit (withSign neg (roundLow n d)) = neg :=
  signBit_withSign (roundLow_lt n d)

theorem toNat_mod_two (a : Sample) : a.toNat % 2 = lowBits a % 2 := by unfold lowBits; omega

/-- The value `p / q` is no nearer to a sample than the magnitudes are to each other. -/
theorem distance_le (p : Int) (q : Nat) (x : Sample) : distance p.natAbs q (lowBits x) ≤ (p - q * scaled x).natAbs := by
  have hx : (q * scaled x).natAbs = q * lowValue (lowBits x) := by
    rw [Int.natAbs_mul, natAbs_scaled, magnitude_eq, Int.natAbs_natCast]
  unfold distance; omega

/-- Signs that agree make it the distance of the magnitudes. -/
theorem distance_eq {p : Int} {x : Sample} (q : Nat) (h : p ≠ 0 → signBit x = decide (p < 0)) :
    (p - q * scaled x).natAbs = distance p.natAbs q (lowBits x) := by
  have hx : q * scaled x =
      if signBit x then -((q * lowValue (lowBits x) : Nat) : Int) else (q * lowValue (lowBits x) : Nat) := by
    unfold scaled; rw [magnitude_eq]; split <;> simp
  unfold distance
  rcases eq_or_ne p 0 with rfl | hp
  · rw [hx]; split <;> omega
  · rw [hx, h hp]
    by_cases hneg : p < 0
    · simp only [hneg, decide_true, if_true]; omega
    · simp only [hneg, decide_false, Bool.false_eq_true, if_false]; omega

theorem natAbs_scaled_eq_iff {a b : Sample} : (scaled a).natAbs = (scaled b).natAbs ↔ lowBits a = lowBits b := by
  rw [natAbs_scaled, natAbs_scaled, magnitude_eq, magnitude_eq, lowValue_strictMono.injective.eq_iff]

/-- Two samples of the same magnitude are as near to a value other than zero only if they have the same sign. -/
theorem scaled_eq_of_tie {p : Int} {q : Nat} {r x : Sample} (hq : 0 < q) (hp : p ≠ 0) (hlow : lowBits x = lowBits r)
    (htie : (p - q * scaled r).natAbs = (p - q * scaled x).natAbs) : scaled x = scaled r := by
  rcases Int.natAbs_eq_natAbs_iff.1 (natAbs_scaled_eq_iff.2 hlow) with hx | hx
  · exact hx
  · rw [hx, mul_neg] at htie
    have hzero : (q : Int) * scaled r = 0 := by omega
    rcases mul_eq_zero.1 hzero with h | h <;> omega

theorem roundLow_lt_of_isInf_eq_false {neg : Bool} {n d : Nat} (h : isInf (withSign neg (roundLow n d)) = false) :
    roundLow n d < infLow := by
  refine (roundLow_le n d).lt_of_ne fun hinf => ?_
  rw [← lowBits_withSign_roundLow neg, ← isInf_iff, h] at hinf
  exact absurd hinf (by decide)

/-- The magnitude rounded and given the sign of the exact value is that value rounded (R13). -/
theorem roundsTo_withSign {p : Int} {q : Nat} {neg : Bool} (hq : 0 < q) (hneg : p ≠ 0 → neg = decide (p < 0)) :
    RoundsTo p q (withSign neg (roundLow p.natAbs q)) := by
  have near (hfin) := isNearestEven_of_roundLow_lt hq (roundLow_lt_of_isInf_eq_false (neg := neg) (n := p.natAbs) hfin)
  have hdist : (p - q * scaled (withSign neg (roundLow p.natAbs q))).natAbs = distance p.natAbs q (roundLow p.natAbs q) := by
    rw [distance_eq q fun hp => by rw [signBit_withSign_roundLow, hneg hp], lowBits_withSign_roundLow]
  constructor
  case number => exact isNaN_withSign_roundLow ..
  case overflow => rw [isInf_iff, lowBits_withSign_roundLow, roundLow_eq_infLow_iff hq]
  case sign => intro hp; rw [signBit_withSign_roundLow, hneg hp]
  case nearest =>
    intro hfin x _
    exact hdist ▸ ((near hfin).nearest _).trans (distance_le p q x)
  case even =>
    intro hfin x _ htie hne
    rw [toNat_mod_two, lowBits_withSign_roundLow]
    by_cases hlow : lowBits x = roundLow p.natAbs q
    · rcases eq_or_ne p 0 with rfl | hp
      · simp
      · exact absurd (scaled_eq_of_tie hq hp (hlow.trans (lowBits_withSign_roundLow ..).symm) htie) hne
    · refine (near hfin).even _ hlow (le_antisymm ((near hfin).nearest _) ?_)
      rw [← hdist, htie]
      exact distance_le p q x

end Sys2Proof.Machine
end

section
/-! The operations of the default `NUM` (R13, R15), one lemma per case: when the result is a NaN, what an infinity or a zero
makes, and on finite samples the exact result rounded. -/

namespace Sys2Proof.Machine

/-! ### NaNs and infinities among the operands -/

theorem isNaN_eq_extract (a : Sample) : isNaN a = (a.extractLsb' 23 8 = 255 && a.extractLsb' 0 23 ≠ 0) := by
  simp only [isNaN, expField_eq, fracField_eq, ← BitVec.toNat_inj, ne_eq]; rfl

theorem isNaN_of_isInf {a : Sample} (h : isInf a = true) : isNaN a = false := by
  simp only [isInf, isNaN, Bool.and_eq_true, decide_eq_true_eq] at *; simp [h]

/-- An infinity is its sign. -/
theorem eq_of_isInf {a b : Sample} (ha : isInf a = true) (hb : isInf b = true) (hs : signBit a = signBit b) : a = b :=
  eq_of_signBit_of_lowBits hs (((isInf_iff a).1 ha).trans ((isInf_iff b).1 hb).symm)

@[simp] theorem isInf_withSign_infLow (neg : Bool) : isInf (withSign neg infLow) = true := by cases neg <;> decide

@[simp] theorem scaled_withSign_zero (neg : Bool) : scaled (withSign neg 0) = 0 := by cases neg <;> decide

theorem flt_iff {a b : Sample} (ha : isNaN a = false) (hb : isNaN b = false) : flt a b = true ↔ scaled a < scaled b := by
  simp [flt, ha, hb]

/-! ### Addition and subtraction -/

/-- A sum of finite samples, the sign of a zero settled by the operands. -/
theorem addNumbers_of_finite {a b : Sample} (ha : isInf a = false) (hb : isInf b = false) :
    addNumbers a b =
      withSign (if scaled a + scaled b = 0 then signBit a && signBit b else decide (scaled a + scaled b < 0))
        (roundLow (scaled a + scaled b).natAbs 1) := by
  unfold addNumbers
  simp only [ha, hb, Bool.false_eq_true, if_false]
  split
  · rename_i hz; simp [hz]
  · rfl

theorem addNumbers_of_isInf_left {a : Sample} (ha : isInf a = true) (b : Sample) : addNumbers a b = a := by
  simp [addNumbers, ha]

/-- Unless the infinities are opposed, an infinite second operand is the sum. -/
theorem addNumbers_of_isInf_right {a b : Sample} (hb : isInf b = true) (h : isInf a = true → signBit a = signBit b) :
    addNumbers a b = b := by
  cases ha : isInf a
  · simp [addNumbers, ha, hb]
  · rw [addNumbers_of_isInf_left ha, eq_of_isInf ha hb (h ha)]

theorem isNaN_addNumbers {a b : Sample} (ha : isNaN a = false) (hb : isNaN b = false) : isNaN (addNumbers a b) = false := by
  cases hia : isInf a
  · cases hib : isInf b
    · rw [addNumbers_of_finite hia hib]; exact isNaN_withSign_roundLow ..
    · rw [addNumbers_of_isInf_right hib (by simp [hia])]; exact hb
  · rw [addNumbers_of_isInf_left hia]; exact ha

/-- An operation that makes a NaN under the condition `c`, and otherwise a number. -/
theorem isNaN_ite_someNaN {c : Bool} {op : Nat} {a b r : Sample} (h : c = false → isNaN r = false) :
    isNaN (if c then someNaN op a b else r) = c := by
  cases c
  · exact h rfl
  · exact isNaN_someNaN op a b

/-- A sum is a NaN exactly from a NaN or opposed infinities. -/
theorem isNaN_fadd (a b : Sample) :
    isNaN (fadd a b) = (isNaN a || isNaN b || (isInf a && isInf b && signBit a != signBit b)) := by
  refine isNaN_ite_someNaN fun h => ?_
  simp only [Bool.or_eq_false_iff] at h
  obtain ⟨⟨ha, hb⟩, -⟩ := h
  exact isNaN_addNumbers ha hb

/-- A difference is a NaN exactly from a NaN or two infinities of one sign. -/
theorem isNaN_fsub (a b : Sample) :
    isNaN (fsub a b) = (isNaN a || isNaN b || (isInf a && isInf b && signBit a == signBit b)) := by
  refine isNaN_ite_someNaN fun h => ?_
  simp only [Bool.or_eq_false_iff] at h
  obtain ⟨⟨ha, hb⟩, -⟩ := h
  exact isNaN_addNumbers ha ((isNaN_negate b).trans hb)

theorem fadd_of_number {a b : Sample} (h : isNaN (fadd a b) = false) : fadd a b = addNumbers a b := by
  rw [isNaN_fadd] at h; rw [fadd, h, if_neg Bool.false_ne_true]

theorem fsub_of_number {a b : Sample} (h : isNaN (fsub a b) = false) : fsub a b = addNumbers a (negate b) := by
  rw [isNaN_fsub] at h; rw [fsub, h, if_neg Bool.false_ne_true]

theorem fadd_of_isInf {a b : Sample} (h : isNaN (fadd a b) = false) :
    (isInf a = true → fadd a b = a) ∧ (isInf b = true → fadd a b = b) := by
  rw [fadd_of_number h]
  refine ⟨fun ha => addNumbers_of_isInf_left ha b, fun hb => addNumbers_of_isInf_right hb fun ha => ?_⟩
  rw [isNaN_fadd] at h
  simpa [ha, hb, isNaN_of_isInf] using h

theorem fsub_of_isInf {a b : Sample} (h : isNaN (fsub a b) = false) :
    (isInf a = true → fsub a b = a) ∧ (isInf b = true → fsub a b = negate b) := by
  rw [fsub_of_number h]
  refine ⟨fun ha => addNumbers_of_isInf_left ha _, fun hb => addNumbers_of_isInf_right (by simpa using hb) fun ha => ?_⟩
  rw [isNaN_fsub] at h
  simpa [ha, hb, isNaN_of_isInf, Bool.eq_not] using h

/-! ### Multiplication and division -/

/-- A product is a NaN exactly from a NaN, or from an infinity and a zero. -/
theorem isNaN_fmul (a b : Sample) : isNaN (fmul a b) =
    (isNaN a || isNaN b || (isInf a && magnitude b = 0) || (magnitude a = 0 && isInf b)) := by
  refine isNaN_ite_someNaN fun _ => ?_
  split
  · exact isNaN_withSign le_rfl
  · exact isNaN_withSign_roundLow ..

/-- A quotient is a NaN exactly from a NaN, two infinities or two zeros. -/
theorem isNaN_fdiv (a b : Sample) : isNaN (fdiv a b) =
    (isNaN a || isNaN b || (isInf a && isInf b) || (magnitude a = 0 && magnitude b = 0)) := by
  refine isNaN_ite_someNaN fun _ => ?_
  split
  · exact isNaN_withSign le_rfl
  · split
    · exact isNaN_withSign (Nat.zero_le _)
    · exact isNaN_withSign_roundLow ..

theorem fmul_of_number {a b : Sample} (h : isNaN (fmul a b) = false) : fmul a b =
    withSign (signBit a != signBit b)
      (if isInf a || isInf b then infLow else roundLow (magnitude a * magnitude b) (2 ^ 149)) := by
  rw [isNaN_fmul] at h; rw [fmul, h]; simp only [Bool.false_eq_true, if_false]; split <;> rfl

theorem fdiv_of_number {a b : Sample} (h : isNaN (fdiv a b) = false) : fdiv a b =
    withSign (signBit a != signBit b)
      (if isInf a || magnitude b = 0 then infLow else if isInf b then 0
        else roundLow (magnitude a * 2 ^ 149) (magnitude b)) := by
  rw [isNaN_fdiv] at h; rw [fdiv, h]; simp only [Bool.false_eq_true, if_false]; split <;> [rfl; split <;> rfl]

theorem signBit_fmul {a b : Sample} (h : isNaN (fmul a b) = false) : signBit (fmul a b) = (signBit a != signBit b) := by
  rw [fmul_of_number h]
  refine signBit_withSign ?_
  split
  · decide
  · exact roundLow_lt ..

theorem signBit_fdiv {a b : Sample} (h : isNaN (fdiv a b) = false) : signBit (fdiv a b) = (signBit a != signBit b) := by
  rw [fdiv_of_number h]
  refine signBit_withSign ?_
  split
  · decide
  · split
    · decide
    · exact roundLow_lt ..

theorem isInf_fmul {a b : Sample} (h : isNaN (fmul a b) = false) (hinf : isInf a = true ∨ isInf b = true) :
    isInf (fmul a b) = true := by
  rw [fmul_of_number h, if_pos (by simpa using hinf)]; exact isInf_withSign_infLow _

theorem isInf_fdiv {a b : Sample} (h : isNaN (fdiv a b) = false) (hinf : isInf a = true ∨ magnitude b = 0) :
    isInf (fdiv a b) = true := by
  rw [fdiv_of_number h, if_pos (by simpa using hinf)]; exact isInf_withSign_infLow _

theorem magnitude_ne_zero_of_isInf {a : Sample} (h : isInf a = true) : magnitude a ≠ 0 := by
  rw [ne_eq, magnitude_eq_zero_iff, (isInf_iff a).1 h]; decide

/-- A number divided by an infinity is a zero. -/
theorem scaled_fdiv_of_isInf {a b : Sample} (h : isNaN (fdiv a b) = false) (hb : isInf b = true) : scaled (fdiv a b) = 0 := by
  have ha : isInf a = false := by
    rw [isNaN_fdiv, hb, Bool.and_true] at h
    simp only [Bool.or_eq_false_iff] at h
    obtain ⟨⟨-, hinf⟩, -⟩ := h
    exact hinf
  rw [fdiv_of_number h, if_neg (by simp [ha, magnitude_ne_zero_of_isInf hb]), if_pos hb, scaled_withSign_zero]

/-! ### Finite operands: the exact result, rounded -/

/-- The sign of a product of two numbers other than zero. -/
theorem decide_mul_neg {x y : Int} (hx : x ≠ 0) (hy : y ≠ 0) :
    decide (x * y < 0) = (decide (x < 0) != decide (y < 0)) := by
  rw [Bool.eq_iff_iff, decide_eq_true_iff, mul_neg_iff, bne_iff_ne, ne_eq, decide_eq_decide]
  omega

section Finite

variable {a b : Sample} (ha : Config.IsFinite a) (hb : Config.IsFinite b)
include ha hb

theorem isNaN_fadd_of_finite : isNaN (fadd a b) = false := by
  simp [isNaN_fadd, isFinite_not_isNaN ha, isFinite_not_isNaN hb, isFinite_not_isInf ha]

theorem isNaN_fsub_of_finite : isNaN (fsub a b) = false := by
  simp [isNaN_fsub, isFinite_not_isNaN ha, isFinite_not_isNaN hb, isFinite_not_isInf ha]

theorem isNaN_fmul_of_finite : isNaN (fmul a b) = false := by
  simp [isNaN_fmul, isFinite_not_isNaN ha, isFinite_not_isNaN hb, isFinite_not_isInf ha, isFinite_not_isInf hb]

theorem isNaN_fdiv_of_finite (h0 : scaled b ≠ 0) : isNaN (fdiv a b) = false := by
  rw [ne_eq, scaled_eq_zero_iff] at h0
  simp [isNaN_fdiv, isFinite_not_isNaN ha, isFinite_not_isNaN hb, isFinite_not_isInf ha, h0]

theorem roundsTo_fadd : RoundsTo (scaled a + scaled b) 1 (fadd a b) := by
  rw [fadd_of_number (isNaN_fadd_of_finite ha hb), addNumbers_of_finite (isFinite_not_isInf ha) (isFinite_not_isInf hb)]
  exact roundsTo_withSign Nat.one_pos fun hz => if_neg hz

theorem roundsTo_fsub : RoundsTo (scaled a - scaled b) 1 (fsub a b) := by
  rw [fsub_of_number (isNaN_fsub_of_finite ha hb),
    addNumbers_of_finite (isFinite_not_isInf ha) ((isInf_negate b).trans (isFinite_not_isInf hb)), scaled_negate,
    ← sub_eq_add_neg]
  exact roundsTo_withSign Nat.one_pos fun hz => if_neg hz

theorem roundsTo_fmul : RoundsTo (scaled a * scaled b) (2 ^ 149) (fmul a b) := by
  rw [fmul_of_number (isNaN_fmul_of_finite ha hb), if_neg (by simp [isFinite_not_isInf ha, isFinite_not_isInf hb]),
    ← natAbs_scaled, ← natAbs_scaled, ← Int.natAbs_mul]
  refine roundsTo_withSign (by positivity) fun hp => ?_
  obtain ⟨hna, hnb⟩ := mul_ne_zero_iff.1 hp
  rw [signBit_of_scaled_ne_zero hna, signBit_of_scaled_ne_zero hnb, decide_mul_neg hna hnb]

theorem roundsTo_fdiv (h0 : scaled b ≠ 0) :
    RoundsTo (scaled a * 2 ^ 149 * (scaled b).sign) (scaled b).natAbs (fdiv a b) := by
  have hmag : magnitude b ≠ 0 := fun h => h0 ((scaled_eq_zero_iff b).2 h)
  have habs : (scaled a * 2 ^ 149 * (scaled b).sign).natAbs = magnitude a * 2 ^ 149 := by
    rw [Int.natAbs_mul, Int.natAbs_mul, natAbs_scaled, Int.natAbs_sign_of_ne_zero h0, mul_one]; rfl
  rw [fdiv_of_number (isNaN_fdiv_of_finite ha hb h0), if_neg (by simp [isFinite_not_isInf ha, hmag]),
    if_neg (by simp [isFinite_not_isInf hb]), ← habs, ← natAbs_scaled b]
  refine roundsTo_withSign (Int.natAbs_pos.2 h0) fun hp => ?_
  obtain ⟨hna, hnb⟩ := mul_ne_zero_iff.1 hp
  rw [decide_mul_neg hna hnb, signBit_of_scaled_ne_zero (left_ne_zero_of_mul hna), signBit_of_scaled_ne_zero h0]
  simp [Int.sign_neg_iff, mul_neg_iff]

/-- A sum of exactly zero is negative only if both operands are. -/
theorem signBit_fadd_of_zero (hz : scaled a + scaled b = 0) : signBit (fadd a b) = (signBit a && signBit b) := by
  rw [fadd_of_number (isNaN_fadd_of_finite ha hb), addNumbers_of_finite (isFinite_not_isInf ha) (isFinite_not_isInf hb),
    signBit_withSign_roundLow, if_pos hz]

theorem signBit_fsub_of_zero (hz : scaled a - scaled b = 0) : signBit (fsub a b) = (signBit a && !signBit b) := by
  rw [fsub_of_number (isNaN_fsub_of_finite ha hb),
    addNumbers_of_finite (isFinite_not_isInf ha) ((isInf_negate b).trans (isFinite_not_isInf hb)),
    signBit_withSign_roundLow, scaled_negate, ← sub_eq_add_neg, if_pos hz, signBit_negate]

end Finite

theorem roundsTo_u2f (n : Nat) : RoundsTo (n * 2 ^ 149) 1 (u2f n) :=
  roundsTo_withSign (p := n * 2 ^ 149) Nat.one_pos fun _ => (decide_eq_false (not_lt.2 (by positivity))).symm

/-! ### The reductions of R15 -/

theorem sumSeq_concat (add : Sample → Sample → Sample) (l : List Sample) (x : Sample) :
    sumSeq add (l ++ [x]) = add (sumSeq add l) x := List.foldl_concat ..

theorem maxSeq_concat (gt : Sample → Sample → Bool) (l : List Sample) (a x : Sample) :
    maxSeq gt (a :: l ++ [x]) = if gt x (maxSeq gt (a :: l)) then x else maxSeq gt (a :: l) := List.foldl_concat ..

/-! ### The statements -/

/-- Settles O59: the first part is `isNearestEven_of_roundLow_lt`, each operation's part its `roundsTo` lemma. -/
theorem roundingIsToNearestEven : Obligations.RoundingIsToNearestEven := by
  refine ⟨?_, fun a b ha hb => ⟨roundsTo_fadd ha hb, roundsTo_fsub ha hb, roundsTo_fmul ha hb, roundsTo_fdiv ha hb,
    signBit_fadd_of_zero ha hb, signBit_fsub_of_zero ha hb, signBit_fmul (isNaN_fmul_of_finite ha hb),
    fun h0 => signBit_fdiv (isNaN_fdiv_of_finite ha hb h0)⟩, roundsTo_u2f, fun l x => ⟨rfl, sumSeq_concat fadd l x⟩,
    fun l a x => ⟨rfl, maxSeq_concat fgt l a x⟩⟩
  intro n d other hd hfin hother
  have hnear := isNearestEven_of_roundLow_lt hd hfin
  rw [magnitude_eq, magnitude_eq, lowBits_withSign_roundLow, lowBits_withSign (hother.trans (by decide))]
  exact ⟨hnear.nearest other, fun htie hne => hnear.even other hne htie⟩

/-- Settles O60: a NaN comes of the operands that the `isNaN_` lemmas list, and each other special case has its own lemma. -/
theorem naNsPropagateAndCompareFalse : Obligations.NaNsPropagateAndCompareFalse := by
  refine ⟨fun a => rfl, fun a b ha => ?_, isNaN_eq_extract, fun a b ha hb => ?_⟩
  · rw [binary32_isnan] at ha
    simp [isNaN_fadd, isNaN_fsub, isNaN_fmul, isNaN_fdiv, fgt, flt, ha]
  · rw [binary32_isnan] at ha hb
    refine ⟨flt_iff ha hb, flt_iff hb ha, ?_, ?_, ?_, ?_, fadd_of_isInf, fsub_of_isInf,
      fun h => ⟨signBit_fmul h, isInf_fmul h⟩, fun h => ⟨signBit_fdiv h, fun hinf => isInf_fdiv h ?_, scaled_fdiv_of_isInf h⟩⟩
    · simp [isNaN_fadd, ha, hb, and_assoc]
    · simp [isNaN_fsub, ha, hb, and_assoc]
    · simp [isNaN_fmul, ha, hb, scaled_eq_zero_iff]
    · simp [isNaN_fdiv, ha, hb, scaled_eq_zero_iff]
    · rwa [← scaled_eq_zero_iff]

end Sys2Proof.Machine
end

section
/-! The reset state satisfies the invariant: the laws of R8 and R9 hold of the OPEN parameters, whatever their raw values. -/

namespace Sys2Proof.Machine

/-! ### The OPEN parameters under their laws -/

theorem toCapacity_pos (n : Nat) : 1 ≤ Config.toCapacity n := Nat.le_add_left ..

theorem toCapacity_lt (n : Nat) : Config.toCapacity n < 2 ^ 32 := by
  unfold Config.toCapacity; omega

theorem toNat_clearSign (a : Sample) : (a &&& 0x7FFFFFFF).toNat = lowBits a := by
  rw [BitVec.toNat_and]; exact Nat.and_two_pow_sub_one_eq_mod a.toNat 31

/-- A pattern other than `+0.0` with its sign clear is greater than zero. -/
theorem scaled_clearSign_pos {a : Sample} (h : a &&& 0x7FFFFFFF ≠ 0) : 0 < scaled (a &&& 0x7FFFFFFF) := by
  have hlt : lowBits a < 2 ^ 31 := Nat.mod_lt _ (by decide)
  have hne : lowBits a ≠ 0 := by
    rw [← toNat_clearSign]; exact fun hz => h (BitVec.eq_of_toNat_eq hz)
  rw [scaled_pos_iff, signBit_eq, ne_eq, magnitude_eq_zero_iff, lowBits, toNat_clearSign, Nat.mod_eq_of_lt hlt]
  exact ⟨decide_eq_false (Nat.not_le.2 hlt), hne⟩

/-- Clearing the sign keeps the exponent field, so it keeps a finite sample finite. -/
theorem isFinite_clearSign {a : Sample} (h : Config.IsFinite a) : Config.IsFinite (a &&& 0x7FFFFFFF) := by
  unfold Config.IsFinite
  rwa [BitVec.and_assoc, show (0x7FFFFFFF &&& 0x7F800000 : Sample) = 0x7F800000 by decide]

theorem toPositive_isFinite (x : Sample) : Config.IsFinite (Config.toPositive x) := by
  unfold Config.toPositive
  split
  · decide
  · exact isFinite_clearSign (toFinite_isFinite x)

theorem scaled_toPositive_pos (x : Sample) : 0 < scaled (Config.toPositive x) := by
  unfold Config.toPositive
  split
  · decide
  · exact scaled_clearSign_pos ‹_›

theorem refLowPass_finite : Config.refLowPass.Finite := ⟨by decide, by decide, by decide, by decide, by decide⟩

theorem refHighPass_finite : Config.refHighPass.Finite := ⟨by decide, by decide, by decide, by decide, by decide⟩

/-- The parameters of the core that `State.reset` is the reset state of satisfy R8 and R9. -/
theorem params_valid : Config.params.Valid where
  taps := by decide
  rate := by decide
  cutoffLp := by decide
  cutoffHp := by decide
  epsFinite := toPositive_isFinite _
  epsPositive := scaled_toPositive_pos _
  mic := ⟨toCapacity_pos _, toCapacity_lt _⟩
  ref := ⟨toCapacity_pos _, toCapacity_lt _⟩
  out := ⟨toCapacity_pos _, toCapacity_lt _⟩
  stride := by decide
  low := by decide
  refill := Nat.div_le_self ..
  coefsLp := refLowPass_finite
  coefsHp := refHighPass_finite

/-! ### The invariant -/

/-- Reset with any legal parameters satisfies the invariant: nothing is requested, pending or faulted, and the weights are
finite draws (R59, R60). -/
theorem inv_boot {c : Params} (hc : c.Valid) (k : Nat) : Inv (State.boot c k) where
  config := hc
  caps := ⟨rfl, rfl, rfl⟩
  storage := wf_boot c k
  weights := fun hnum _ x hx => hnum x (w0_finite k c.n x hx)
  phase := fun _ => rfl
  faulted := by simp [State.boot]
  requested := by simp [State.boot]
  pending := by simp [State.boot]
  waits := by simp [State.boot]
  direct := by simp [State.boot]

/-- Settles O56: `State.reset` is the reset event with the legal parameters `Config.params`. -/
theorem resetSatisfiesTheInvariant : Obligations.ResetSatisfiesTheInvariant :=
  inv_boot params_valid 0

end Sys2Proof.Machine
end

section
/-! Reset, the word placed to be run next, and what the controller reads: the registers and the fields of `STATUS`. -/

namespace Sys2Proof.Machine

/-! ### Reset -/

/-- Settles O57: field by field as `State.boot` lists them; the weights are the draw `Config.w0`, `N` finite samples (R60). -/
theorem resetLeavesTheValuesOfTheTable : Obligations.ResetLeavesTheValuesOfTheTable := fun c k =>
  ⟨rfl, rfl, rfl, rfl, w0_length k c.n, w0_finite k c.n, rfl, rfl, rfl, rfl, rfl, rfl, rfl, rfl, rfl, rfl, rfl, rfl, rfl, rfl,
    rfl, rfl, rfl⟩

/-- A reset turn runs the reset event. -/
theorem step_onTurn_reset (s : State) : step (s.onTurn .reset) = .next s.resetEvent := rfl

/-- Settles O58. -/
theorem resetTurnRebuildsTheCore : Obligations.ResetTurnRebuildsTheCore := step_onTurn_reset

/-! ### Turns and placed words -/

theorem put_at (b : Inbox) (p : Port) (ws : List Command) : (b.put p ws).at p = ws := by cases p <;> rfl

theorem put_put (b : Inbox) (p : Port) (vs ws : List Command) : (b.put p vs).put p ws = b.put p ws := by cases p <;> rfl

theorem put_at_self (b : Inbox) (p : Port) : b.put p (b.at p) = b := by cases p <;> rfl

/-- The turn of a port's agent issues the port's next word, `A_CTL` only with none of its transactions open. -/
theorem takeTurn_port {s : State} {p : Port} (hc : p = .ctl → s.ctl = .ready) :
    takeTurn (.agent p.agent) s = issueNext p s := by
  cases p with
  | mic | ref | out => rfl
  | ctl => simp only [takeTurn, Port.agent, controllerTurn, hc rfl]

/-- An agent that issues a legal word runs its operation. -/
theorem issueNext_of_decode {s : State} {p : Port} {w : Command} {ws : List Command} {i : Instr} (hd : decode w = .ok i)
    (hw : s.inbox.at p = w :: ws) : issueNext p s = .issue i { s with inbox := s.inbox.put p ws, curPort := p } := by
  simp only [issueNext, hw, hd]

/-- On the turn of a port's agent the step runs the operation of the port's next word (R54, R80). -/
theorem step_onTurn_of_decode {s : State} {p : Port} {w : Command} {ws : List Command} {i : Instr} (hd : decode w = .ok i)
    (hw : s.inbox.at p = w :: ws) (hc : p = .ctl → s.ctl = .ready) :
    step (s.onTurn (.agent p.agent)) = exec i { s with inbox := s.inbox.put p ws, curPort := p } := by
  have hf : fetch (s.onTurn (.agent p.agent)) = .issue i { s with inbox := s.inbox.put p ws, curPort := p } :=
    (takeTurn_port hc).trans (issueNext_of_decode hd hw)
  simp only [step, hf]

theorem decodeTableWord_eq_some {n w : Nat} {i : Instr} (h : decodeTableWord n w = some i) :
    decode (tableWord n w) = .ok i := by
  unfold decodeTableWord at h
  split at h
  · cases h; assumption
  · cases h

theorem portOf_of_decode {w : Command} {i : Instr} (h : decode w = .ok i) : portOf w = homePort i := by
  simp only [portOf, h]

/-- A placed word is issued at the next turn, and the words that waited before it wait again. -/
theorem step_place {s : State} {w : Command} {i : Instr} (hd : decode w = .ok i) :
    step (s.place w) = exec i { s with curPort := portOf w, ctl := if portOf w = .ctl then .ready else s.ctl } := by
  have h := step_onTurn_of_decode (p := portOf w) (ws := s.inbox.at (portOf w))
    (s := { s with
      inbox := s.inbox.put (portOf w) (w :: s.inbox.at (portOf w))
      ctl := if portOf w = .ctl then .ready else s.ctl }) hd (put_at ..) fun hp => if_pos hp
  rw [put_put, put_at_self] at h
  exact h

/-- Settles O7: `step_place` on the word of a table row. -/
theorem placedWordIsRunNext : Obligations.PlacedWordIsRunNext := by
  intro s w i hdec
  have hd := decodeTableWord_eq_some hdec
  exact ⟨_, step_place hd, portOf_of_decode hd, rfl⟩

/-! ### `CSRR` -/

theorem ctrlWord_eq (s : State) : s.ctrlWord = if s.telemEn then 1 else 0 := by
  unfold State.ctrlWord; cases s.telemEn <;> rfl

/-- Above 0x19 every register number is reserved (R55). -/
theorem csr_reserved (s : State) {n : Nat} (h : 0x19 < n) : s.csr n = none := by
  obtain ⟨k, rfl⟩ := Nat.exists_eq_add_of_le h
  rw [Nat.add_comm]; rfl

/-- `CSRR` on the controller's port answers what the table holds under the number (R232). -/
theorem exec_csrr {s : State} (hp : s.curPort = .ctl) (n : Nat) : exec (.csrr n) s = .next (csrrCommand n s) :=
  gate_always (by simp [controller, hp])

theorem exec_csrr_of_some {s : State} (hp : s.curPort = .ctl) {n : Nat} {v : BitVec 32} (h : s.csr n = some v) :
    exec (.csrr n) s = .next (s.reply .ok 0 v) := by
  rw [exec_csrr hp, csrrCommand, h]

theorem exec_csrr_of_none {s : State} (hp : s.curPort = .ctl) {n : Nat} (h : s.csr n = none) :
    exec (.csrr n) s = .next (s.reply .badIndex 0 0) := by
  rw [exec_csrr hp, csrrCommand, h]

/-- Settles O46: each line of the table is the value `State.csr` gives at its number. -/
theorem csrrAnswersTheRegister : Obligations.CsrrAnswersTheRegister := by
  intro s hp
  refine ⟨fun n v hmem => exec_csrr_of_some hp ?_, fun n hn => exec_csrr_of_none hp (csr_reserved s hn)⟩
  refine (?_ : ∀ e ∈ _, s.csr e.1 = some e.2) (n, v) hmem
  simp [State.csr, ctrlWord_eq, natWord]

/-! ### `STATUS` -/

theorem sched_code_lt (c : Sched) : c.code < 5 := by cases c <;> decide

theorem phase_code_lt (p : Phase) : p.code < 6 := by cases p <;> decide

/-- Every field of `STATUS` fits its bits (R46, R47, R56). -/
theorem status_fields_fit (s : State) : s.sched.code < 5 ∧ s.ph.code < 6 ∧ s.fault.toNat ≤ 1 ∧ s.outOverrun.toNat ≤ 1 ∧
    s.starved.toNat ≤ 1 ∧ s.worked.toNat ≤ 1 ∧ s.killPending.toNat ≤ 1 ∧ s.token.toNat ≤ 1 :=
  ⟨sched_code_lt _, phase_code_lt _, Bool.toNat_le _, Bool.toNat_le _, Bool.toNat_le _, Bool.toNat_le _, Bool.toNat_le _,
    Bool.toNat_le _⟩

/-- `STATUS` as a number: nothing of it is lost modulo 2^32. -/
theorem statusWord_toNat (s : State) : s.statusWord.toNat =
    s.sched.code + s.fault.toNat * 2 ^ 3 + s.outOverrun.toNat * 2 ^ 4 + s.starved.toNat * 2 ^ 5 + s.ph.code * 2 ^ 8
      + s.worked.toNat * 2 ^ 11 + s.killPending.toNat * 2 ^ 12 + s.token.toNat * 2 ^ 13 := by
  have hfit := status_fields_fit s
  rw [State.statusWord, BitVec.toNat_ofNat]
  omega

/-- A field of a word, read off its number. -/
theorem extractLsb'_of_toNat {w : BitVec 32} {k n v : Nat} (h : w.toNat / 2 ^ k % 2 ^ n = v) :
    w.extractLsb' k n = BitVec.ofNat n v := by
  apply BitVec.eq_of_toNat_eq
  rw [BitVec.extractLsb'_toNat, Nat.shiftRight_eq_div_pow, h, BitVec.toNat_ofNat, ← h, Nat.mod_mod]

/-- A bit of a word, read off its number. -/
theorem getLsbD_of_toNat {w : BitVec 32} {k : Nat} {b : Bool} (h : w.toNat / 2 ^ k % 2 = b.toNat) : w.getLsbD k = b := by
  rw [BitVec.getLsbD, Nat.testBit_eq_decide_div_mod_eq, h]
  cases b <;> rfl

/-- Settles O47: each field is a quotient and remainder of the number of `STATUS`, since the fields below it fit their bits. -/
theorem statusHoldsItsFields : Obligations.StatusHoldsItsFields := by
  intro s
  have hfit := status_fields_fit s
  have hn := statusWord_toNat s
  have hsched : s.statusWord.extractLsb' 0 3 = BitVec.ofNat 3 s.sched.code := extractLsb'_of_toNat (by omega)
  have hph : s.statusWord.extractLsb' 8 3 = BitVec.ofNat 3 s.ph.code := extractLsb'_of_toNat (by omega)
  exact ⟨hsched.trans (by cases s.sched <;> rfl), getLsbD_of_toNat (by omega), getLsbD_of_toNat (by omega),
    getLsbD_of_toNat (by omega), extractLsb'_of_toNat (v := 0) (by omega), hph.trans (by cases s.ph <;> rfl),
    getLsbD_of_toNat (by omega), getLsbD_of_toNat (by omega), getLsbD_of_toNat (by omega),
    extractLsb'_of_toNat (v := 0) (by omega)⟩

end Sys2Proof.Machine
end

section
/-! What an iteration and a step of the engine thread come to, with the states they leave written out: a proof about every such
state takes these cases, and most of them change nothing it speaks of. -/

namespace Sys2Proof.Machine

/-! ### An iteration that leaves a new state -/

/-- An iteration that completes (R203). -/
theorem iterate_eq_ok {s t : State} {f v : Sample} (h : iterate s = .ok f v t) :
    ∃ m r ms rs, (shiftIn s.dl r).length = s.w.length ∧ (adaptOfIteration m r s).nan = false ∧
      t = countIteration (afterStepFive m r ms rs s) := by
  rcases iterate_cases s with ⟨he, -⟩ | ⟨m, r, ms, rs, -, -, -, ⟨-, he⟩ | ⟨-, -, he⟩ | ⟨hf, hn, he⟩⟩ <;> rw [he] at h <;>
    cases h
  exact ⟨m, r, ms, rs, hf, hn, rfl⟩

/-- An iteration that raises the fault (R213). -/
theorem iterate_eq_nanWeight {s t : State} (h : iterate s = .nanWeight t) :
    ∃ m r ms rs, t = (afterStepThree m r ms rs s).raiseNaNWeight := by
  rcases iterate_cases s with ⟨he, -⟩ | ⟨m, r, ms, rs, -, -, -, ⟨-, he⟩ | ⟨-, -, he⟩ | ⟨-, -, he⟩⟩ <;> rw [he] at h <;>
    cases h
  exact ⟨m, r, ms, rs, rfl⟩

/-- With storages of `N` samples an iteration finds a window that fits (R180). -/
theorem iterate_ne_mismatch {s : State} (hn : 0 < s.cfg.n) (hwf : Memory.wf s = true) : iterate s ≠ .mismatch := by
  obtain ⟨hdl, hw, -⟩ := (wf_iff s).1 hwf
  intro h
  rcases iterate_cases s with ⟨he, -⟩ | ⟨m, r, ms, rs, -, -, -, ⟨hf, -⟩ | ⟨-, -, he⟩ | ⟨-, -, he⟩⟩
  · rw [he] at h; cases h
  · rw [shiftIn_length] at hf; omega
  · rw [he] at h; cases h
  · rw [he] at h; cases h

/-! ### A step of the engine thread -/

/-- A waiting `STOP` gets its response, and `A_CTL` is free again (R223, R231). -/
def answerStop (st : Status) (s : State) : State :=
  if s.ctl = .waitStop then { s with ctl := .ready }.answer .ctl st 0 0 else s

theorem answerStop_of_waiting {st : Status} {s : State} (h : s.ctl = .waitStop) :
    answerStop st s = { s with ctl := .ready }.answer .ctl st 0 0 := if_pos h

theorem answerStop_of_not_waiting {st : Status} {s : State} (h : s.ctl ≠ .waitStop) : answerStop st s = s := if_neg h

theorem panicStop_eq_answerStop (s : State) : panicStop s = answerStop .panic s := rfl

theorem checkStep_of_pending {s : State} (h : s.killPending = true) :
    checkStep s = answerStop .ok { s with sched := .stopped, killPending := false } := if_pos h

theorem checkStep_of_not_pending {s : State} (h : s.killPending = false) :
    checkStep s = { s with worked := false, ph := .drain } := if_neg (by simp [h])

/-- What a step of the engine thread can make of state `s`. -/
inductive EngineEffect (s : State) : State → Prop where
  | noThread (h : s.sched.threadRuns = false) : EngineEffect s s
  /-- `CHECK` with no shutdown signal pending (R224) -/
  | newPass (kill : s.killPending = false) : EngineEffect s { s with worked := false, ph := .drain }
  /-- `CHECK` with one pending: the `STOP` completes (R223) -/
  | stopped (ph : s.ph = .check) (kill : s.killPending = true) :
      EngineEffect s (answerStop .ok { s with sched := .stopped, killPending := false })
  /-- `DRAIN` with work (R225) -/
  | worked (f v : Sample) (t : State) (h : iterate s = .ok f v t) : EngineEffect s { t with worked := true }
  /-- `DRAIN` with the fault raised (R231) -/
  | fault (t : State) (h : iterate s = .nanWeight t) : EngineEffect s (answerStop .panic t)
  /-- the next phase and nothing else (R225 to R228) -/
  | enter (ph : Phase) : EngineEffect s { s with ph := ph }
  /-- `LOWTEST` with `OUT` low (R226) -/
  | starved : EngineEffect s { s.report .starved with ph := .refill }
  /-- `REFILL` with `OUT` below its mark (R227) -/
  | refill : EngineEffect s (pushSilence s)
  /-- `DECIDE` with a token, or the wake from `PARKED` (R228, R229) -/
  | useToken : EngineEffect s { s with token := false, ph := .check }

/-- Everything a step of the engine thread can do (R224 to R229, R231). But for `noThread` the thread runs. -/
theorem engineStep_effect {s t : State} (h : engineStep s = .next t) :
    EngineEffect s t ∧ (s.sched.threadRuns = true ∨ t = s) := by
  rcases engineStep_cases h with ⟨hr, rfl⟩ | ⟨hr, hcases⟩
  · exact ⟨.noThread hr, .inr rfl⟩
  · refine ⟨?_, .inl hr⟩
    rcases hcases with ⟨hp, rfl⟩ | ⟨f, v, t', -, hi, rfl⟩ | ⟨-, -, rfl⟩ | ⟨t', -, hi, rfl⟩ | ⟨-, rfl⟩ | ⟨-, rfl⟩ | ⟨-, rfl⟩ |
      ⟨-, rfl⟩
    · cases hk : s.killPending
      · rw [checkStep_of_not_pending hk]; exact .newPass hk
      · rw [checkStep_of_pending hk]; exact .stopped hp hk
    · exact .worked f v t' hi
    · exact .enter .lowtest
    · rw [panicStop_eq_answerStop]; exact .fault t' hi
    · unfold lowtestStep; split
      · exact .starved
      · exact .enter .decide
    · unfold refillStep; split
      · exact .refill
      · exact .enter .decide
    · unfold decideStep; split
      · exact .enter .check
      · split
        · exact .useToken
        · exact .enter .parked
    · exact .useToken

end Sys2Proof.Machine
end

section
/-! The biquad coefficients (R42) and the weights (R36): who writes them. -/

namespace Sys2Proof.Machine

/-- The coefficients of the two biquads (R40). -/
def State.coefs (s : State) : Coefs × Coefs := (s.lp.c, s.hp.c)

theorem coefs_eq_iff {s t : State} : t.coefs = s.coefs ↔ t.lp.c = s.lp.c ∧ t.hp.c = s.hp.c := Prod.mk.injEq .. |>.to_iff

theorem coefs_countIteration (s : State) : (countIteration s).coefs = s.coefs := by simp [State.coefs]

theorem coefs_pushSilence (s : State) : (pushSilence s).coefs = s.coefs := by simp [State.coefs]

/-- A tick keeps the coefficients of the biquad it steps (R156). -/
theorem coefs_setBiquad_tick (u : Numerics) (s : State) (f : BiquadId) (x : Sample) :
    (s.setBiquad f (tick u (s.biquad f) x).2).coefs = s.coefs := by cases f <;> rfl

theorem coefs_iterate_ok {s t : State} {f v : Sample} (h : iterate s = .ok f v t) : t.coefs = s.coefs := by
  obtain ⟨m, r, ms, rs, -, -, rfl⟩ := iterate_eq_ok h
  exact coefs_countIteration _

theorem coefs_iterate_nanWeight {s t : State} (h : iterate s = .nanWeight t) : t.coefs = s.coefs := by
  obtain ⟨m, r, ms, rs, rfl⟩ := iterate_eq_nanWeight h
  rfl

theorem coefs_answerStop (st : Status) (s : State) : (answerStop st s).coefs = s.coefs := by
  unfold answerStop; split <;> rfl

theorem coefs_runOnceStep {r : RunOnce} {s t : State} (h : runOnceStep r s = .next t) : t.coefs = s.coefs := by
  rcases runOnceStep_cases h with ⟨f, v, t', -, hi, rfl⟩ | ⟨-, -, rfl⟩ | ⟨t', -, hi, rfl⟩ | ⟨-, -, rfl⟩ | ⟨-, -, rfl⟩ | rfl
  · exact (coefs_iterate_ok hi :)
  · rfl
  · exact (coefs_iterate_nanWeight hi :)
  · rfl
  · exact coefs_pushSilence s
  · rfl

theorem coefs_engineStep {s t : State} (h : engineStep s = .next t) : t.coefs = s.coefs := by
  cases (engineStep_effect h).1 with
  | noThread | newPass | enter | starved | useToken => rfl
  | stopped => exact coefs_answerStop .ok { s with sched := .stopped, killPending := false }
  | worked f v t' hi => exact (coefs_iterate_ok hi :)
  | fault t' hi => exact (coefs_answerStop .panic t').trans (coefs_iterate_nanWeight hi)
  | refill => exact coefs_pushSilence s

/-- An operation that constructs neither a biquad nor the engine keeps the coefficients. -/
theorem coefs_exec {i : Instr} {s t : State} (hb : ∀ m x, i ≠ .bqinitLp m x ∧ i ≠ .bqinitHp m x) (he : ∀ mu, i ≠ .enginit mu)
    (h : exec i s = .next t) : t.coefs = s.coefs := by
  cases exec_effect h with
  | bqinitLp m x => exact absurd rfl (hb m x).1
  | bqinitHp m x => exact absurd rfl (hb m x).2
  | enginit mu => exact absurd rfl (he mu)
  | push _ q | pop _ q => cases q <;> rfl
  | bqtick _ f x => exact coefs_setBiquad_tick s.num s f x
  | iterOk _ f v t' hi => exact (coefs_iterate_ok hi :)
  | iterFault _ t' hi => exact (coefs_iterate_nanWeight hi :)
  | runonce _ _ hr => exact coefs_runOnceStep hr
  | reply | casc | dlpush | dlinit | adapt | adaptFault | start | stop | stopAgain | unpark | telemEn | thr => rfl

/-- Settles O19: `coefs_exec`, `coefs_engineStep` and `coefs_runOnceStep`. -/
theorem coefficientsChangeOnlyAtConstruction : Obligations.CoefficientsChangeOnlyAtConstruction := fun _ _ =>
  ⟨fun _ hb he h => coefs_eq_iff.1 (coefs_exec hb he h), fun h => coefs_eq_iff.1 (coefs_engineStep h),
    fun _ h => coefs_eq_iff.1 (coefs_runOnceStep h)⟩

/-- Settles O27: the other operations replace no field `w`. -/
theorem weightsChangeOnlyByAdaptAndConstruction : Obligations.WeightsChangeOnlyByAdaptAndConstruction := by
  intro i s t hadapt hiter hrun hinit h
  cases exec_effect h with
  | adapt x => exact absurd rfl (hadapt x)
  | adaptFault x => exact absurd rfl (hadapt x)
  | iterOk => exact absurd rfl hiter
  | iterFault => exact absurd rfl hiter
  | runonce => exact absurd rfl hrun
  | enginit mu => exact absurd rfl (hinit mu)
  | push _ q | pop _ q => cases q <;> rfl
  | bqtick _ f => cases f <;> rfl
  | reply | bqinitLp | bqinitHp | casc | dlpush | dlinit | start | stop | stopAgain | unpark | telemEn | thr => rfl

end Sys2Proof.Machine
end

section
/-! What nothing but reset undoes (R31, R51, R58): parameters, capacities, histories, sticky flags. -/

namespace Sys2Proof.Machine

/-- The parts of a state that no step but reset takes back. -/
structure Record where
  cfg : Params
  micCap : Nat
  refCap : Nat
  outCap : Nat
  telemetry : List TelemetryWord
  diag : List DiagEvent
  responses : List Response
  fault : Bool
  starved : Bool
  outOverrun : Bool

/-- The record of a state. -/
def State.record (s : State) : Record :=
  { cfg := s.cfg, micCap := s.mic.cap, refCap := s.ref.cap, outCap := s.out.cap, telemetry := s.telemetry, diag := s.diag
    responses := s.responses, fault := s.fault, starved := s.starved, outOverrun := s.outOverrun }

/-- `t` continues `s`: the same parameters and capacities, histories that extend those of `s`, every sticky flag of `s`. -/
structure Continues (s t : State) : Prop where
  cfg : t.cfg = s.cfg
  micCap : t.mic.cap = s.mic.cap
  refCap : t.ref.cap = s.ref.cap
  outCap : t.out.cap = s.out.cap
  telemetry : s.telemetry <+: t.telemetry
  diag : s.diag <+: t.diag
  responses : s.responses <+: t.responses
  fault : s.fault = true → t.fault = true
  starved : s.starved = true → t.starved = true
  outOverrun : s.outOverrun = true → t.outOverrun = true

theorem Continues.refl (s : State) : Continues s s :=
  ⟨rfl, rfl, rfl, rfl, List.prefix_rfl, List.prefix_rfl, List.prefix_rfl, id, id, id⟩

theorem Continues.trans {s t u : State} (h : Continues s t) (k : Continues t u) : Continues s u :=
  ⟨k.cfg.trans h.cfg, k.micCap.trans h.micCap, k.refCap.trans h.refCap, k.outCap.trans h.outCap, h.telemetry.trans k.telemetry,
    h.diag.trans k.diag, h.responses.trans k.responses, k.fault ∘ h.fault, k.starved ∘ h.starved, k.outOverrun ∘ h.outOverrun⟩

/-- States with the same record continue each other. -/
theorem continues_of_record_eq {s t : State} (h : t.record = s.record) : Continues s t := by
  simp only [State.record, Record.mk.injEq] at h
  obtain ⟨hcfg, hmic, href, hout, htel, hdiag, hresp, hfault, hstarved, hover⟩ := h
  exact ⟨hcfg, hmic, href, hout, htel ▸ List.prefix_rfl, hdiag ▸ List.prefix_rfl, hresp ▸ List.prefix_rfl,
    fun h => hfault.trans h, fun h => hstarved.trans h, fun h => hover.trans h⟩

theorem Continues.record_left {s t u : State} (h : Continues t u) (hr : t.record = s.record) : Continues s u :=
  (continues_of_record_eq hr).trans h

theorem Continues.record_right {s t u : State} (h : Continues s t) (hr : u.record = t.record) : Continues s u :=
  h.trans (continues_of_record_eq hr)

theorem continues_answer (s : State) (p : Port) (st : Status) (d1 d0 : BitVec 32) : Continues s (s.answer p st d1 d0) :=
  { Continues.refl s with responses := List.prefix_append .. }

/-- A response more, after any change outside the record. -/
theorem Continues.answer {s t : State} (h : Continues s t) (p : Port) (st : Status) (d1 d0 : BitVec 32) :
    Continues s (t.answer p st d1 d0) := h.trans (continues_answer ..)

/-- Reporting an event sets its flag and appends it (R51). -/
theorem continues_report (s : State) (e : DiagEvent) : Continues s (s.report e) := by
  constructor <;> simp +contextual

theorem continues_raiseNaNWeight (s : State) : Continues s s.raiseNaNWeight :=
  (continues_report s .nanWeight).record_right rfl

theorem continues_countIteration (s : State) : Continues s (countIteration s) := by
  unfold countIteration
  dsimp only
  split
  · exact { Continues.refl s with telemetry := List.prefix_append .. }
  · exact continues_of_record_eq rfl

theorem record_pushSilence (s : State) : (pushSilence s).record = s.record := by
  unfold pushSilence
  split
  · obtain ⟨-, rfl⟩ := push_eq_some ‹_›; rfl
  · rfl

/-- Another content of one FIFO leaves its capacity (R31). -/
theorem record_setFifo_buf (s : State) (q : FifoId) (buf : List Sample) :
    (s.setFifo q { s.fifo q with buf := buf }).record = s.record := by cases q <;> rfl

theorem record_setBiquad (s : State) (f : BiquadId) (b : Biquad) : (s.setBiquad f b).record = s.record := by cases f <;> rfl

theorem continues_iterate_ok {s t : State} {f v : Sample} (h : iterate s = .ok f v t) : Continues s t := by
  obtain ⟨m, r, ms, rs, -, -, rfl⟩ := iterate_eq_ok h
  exact .record_left (continues_countIteration _) rfl

theorem continues_iterate_nanWeight {s t : State} (h : iterate s = .nanWeight t) : Continues s t := by
  obtain ⟨m, r, ms, rs, rfl⟩ := iterate_eq_nanWeight h
  exact .record_left (continues_raiseNaNWeight _) rfl

theorem continues_answerStop (st : Status) (s : State) : Continues s (answerStop st s) := by
  unfold answerStop
  split
  · exact .record_left (continues_answer ..) rfl
  · exact .refl s

theorem continues_runOnceStep {r : RunOnce} {s t : State} (h : runOnceStep r s = .next t) : Continues s t := by
  rcases runOnceStep_cases h with ⟨f, v, t', -, hi, rfl⟩ | ⟨-, -, rfl⟩ | ⟨t', -, hi, rfl⟩ | ⟨-, -, rfl⟩ | ⟨-, -, rfl⟩ | rfl
  · exact (continues_iterate_ok hi).record_right rfl
  · exact continues_of_record_eq rfl
  · exact (continues_iterate_nanWeight hi).trans (.record_left (continues_answer ..) rfl)
  · exact (continues_report s .starved).record_right rfl
  · exact continues_of_record_eq (record_pushSilence s)
  · exact .record_left (continues_answer ..) rfl

theorem continues_engineStep {s t : State} (h : engineStep s = .next t) : Continues s t := by
  cases (engineStep_effect h).1 with
  | noThread | newPass | enter | useToken => exact continues_of_record_eq rfl
  | stopped => exact .record_left (continues_answerStop ..) rfl
  | worked f v t' hi => exact (continues_iterate_ok hi).record_right rfl
  | fault t' hi => exact (continues_iterate_nanWeight hi).trans (continues_answerStop ..)
  | starved => exact (continues_report s .starved).record_right rfl
  | refill => exact continues_of_record_eq (record_pushSilence s)

theorem continues_exec {i : Instr} {s t : State} (h : exec i s = .next t) : Continues s t := by
  cases exec_effect h with
  | reply => exact continues_answer ..
  | push _ q | pop _ q => exact .record_left (continues_answer ..) (record_setFifo_buf s q _)
  | bqinitLp | bqinitHp | bqtick => exact .record_left (continues_answer ..) (record_setBiquad ..)
  | casc | dlpush | dlinit | adapt | enginit | start | unpark | telemEn | thr => exact .record_left (continues_answer ..) rfl
  | adaptFault => exact .record_left ((continues_raiseNaNWeight _).answer ..) rfl
  | iterOk _ f v t' hi => exact (continues_iterate_ok hi).answer ..
  | iterFault _ t' hi => exact (continues_iterate_nanWeight hi).answer ..
  | runonce _ _ hr => exact continues_runOnceStep hr
  | stop | stopAgain => exact continues_of_record_eq rfl

/-- Every step but reset continues the state (R31, R51, R58). -/
theorem continues_step {s t : State} (h : step s = .next t) (hreset : s.turns.head? ≠ some .reset) : Continues s t := by
  cases step_cases h with
  | reset hr => exact absurd hr hreset
  | stay => exact continues_of_record_eq rfl
  | runOnce r t _ h => exact (continues_runOnceStep h).record_left rfl
  | engine t h => exact (continues_engineStep h).record_left rfl
  | exec p w ws i t _ _ _ h => exact (continues_exec h).record_left rfl
  | illegal => exact .record_left (continues_answer ..) rfl

/-- Settles O53: the histories and flags of `continues_step`. -/
theorem historiesGrowAndFlagsStick : Obligations.HistoriesGrowAndFlagsStick := by
  intro s t h hreset
  have hc := continues_step h hreset
  exact ⟨hc.telemetry, hc.diag, hc.responses, hc.fault, hc.starved, hc.outOverrun⟩

/-- No step changes a parameter, reset included: it builds the core again from the same ones (R58, R270). -/
theorem step_cfg {s t : State} (h : step s = .next t) : t.cfg = s.cfg := by
  by_cases hreset : s.turns.head? = some .reset
  · obtain ⟨ts, hts⟩ := List.head?_eq_some_iff.1 hreset
    have hs : step s = .next { s with turns := ts }.resetEvent := by simp only [step, fetch, hts, takeTurn]
    rw [hs] at h; cases h; rfl
  · exact (continues_step h hreset).cfg

/-- Settles O54: `step_cfg`, and the capacities of `continues_step`. -/
theorem parametersAndCapacitiesAreConstant : Obligations.ParametersAndCapacitiesAreConstant := by
  intro s t h
  refine ⟨step_cfg h, fun hreset => ?_⟩
  have hc := continues_step h hreset
  exact ⟨hc.micCap, hc.refCap, hc.outCap⟩

end Sys2Proof.Machine
end

section
/-! Noninterference: `token` decides nothing but itself and the phase (R229), and a command on a callback port reaches nothing
but its own half of a FIFO and `token` (R257). -/

namespace Sys2Proof.Machine

/-! ### `token` -/

/-- The state with another value of `token`. -/
def State.withToken (b : Bool) (s : State) : State := { s with token := b }

/-- An iteration's result with a change made to the state it leaves. -/
def IterResult.map (g : State → State) : IterResult → IterResult
  | .noWork => .noWork
  | .mismatch => .mismatch
  | .nanWeight s => .nanWeight (g s)
  | .full s => .full (g s)
  | .ok f v s => .ok f v (g s)

theorem countIteration_withToken (b : Bool) (s : State) :
    countIteration (s.withToken b) = (countIteration s).withToken b := by
  unfold countIteration; dsimp only [State.withToken]; split <;> rfl

theorem pushSilence_withToken (b : Bool) (s : State) : pushSilence (s.withToken b) = (pushSilence s).withToken b := by
  unfold pushSilence; dsimp only [State.withToken]; split <;> rfl

/-- An iteration neither reads nor writes `token`. -/
theorem iterate_withToken (b : Bool) (s : State) : iterate (s.withToken b) = (iterate s).map (State.withToken b) := by
  cases hc : s.cond
  · rw [iterate_noWork hc, iterate_noWork (by exact hc)]; rfl
  · obtain ⟨⟨m, ms, hm⟩, ⟨r, rs, hr⟩, ho⟩ := cond_iff.1 hc
    have hcount := countIteration_withToken b (afterStepFive m r ms rs s)
    rw [iterate_of_work hm hr ho, iterate_of_work (s := s.withToken b) hm hr ho]
    split
    · split
      · rename_i hf hn; rw [if_pos (by exact hf), if_pos (by exact hn)]; rfl
      · rename_i hf hn
        rw [if_pos (by exact hf), if_neg (by exact hn)]
        exact congrArg _ hcount
    · rename_i hf; rw [if_neg (by exact hf)]; rfl

/-! ### The phases -/

section Phases

variable {s : State} (hr : s.sched.threadRuns = true)

include hr

theorem engineStep_check (hp : s.ph = .check) : engineStep s = .next (checkStep s) := by simp only [engineStep, hr, hp, if_true]

theorem engineStep_drain (hp : s.ph = .drain) : engineStep s = drainStep s := by simp only [engineStep, hr, hp, if_true]

theorem engineStep_lowtest (hp : s.ph = .lowtest) : engineStep s = .next (lowtestStep s) := by
  simp only [engineStep, hr, hp, if_true]

theorem engineStep_refill (hp : s.ph = .refill) : engineStep s = .next (refillStep s) := by
  simp only [engineStep, hr, hp, if_true]

theorem engineStep_decide (hp : s.ph = .decide) : engineStep s = .next (decideStep s) := by
  simp only [engineStep, hr, hp, if_true]

theorem engineStep_parked (hp : s.ph = .parked) : engineStep s = .next (wakeStep s) := by
  simp only [engineStep, hr, hp, if_true]

end Phases

theorem engineStep_noThread {s : State} (hr : s.sched.threadRuns = false) : engineStep s = .next s := by
  simp only [engineStep, hr, Bool.false_eq_true, if_false]

theorem answerStop_withToken (st : Status) (b : Bool) (s : State) :
    answerStop st (s.withToken b) = (answerStop st s).withToken b := by
  unfold answerStop; rw [apply_ite (State.withToken b)]; rfl

theorem checkStep_withToken (b : Bool) (s : State) : checkStep (s.withToken b) = (checkStep s).withToken b := by
  cases hk : s.killPending
  · rw [checkStep_of_not_pending hk, checkStep_of_not_pending (by exact hk)]; rfl
  · rw [checkStep_of_pending hk, checkStep_of_pending (by exact hk)]
    exact answerStop_withToken .ok b { s with sched := .stopped, killPending := false }

theorem lowtestStep_withToken (b : Bool) (s : State) : lowtestStep (s.withToken b) = (lowtestStep s).withToken b := by
  unfold lowtestStep; rw [apply_ite (State.withToken b)]; rfl

theorem refillStep_withToken (b : Bool) (s : State) : refillStep (s.withToken b) = (refillStep s).withToken b := by
  unfold refillStep; rw [pushSilence_withToken, apply_ite (State.withToken b)]; rfl

/-- `DECIDE` reads `token` only to choose the next phase and to clear it (R228). -/
theorem decideStep_withToken (b : Bool) (s : State) :
    { decideStep (s.withToken b) with token := (decideStep s).token, ph := (decideStep s).ph } = decideStep s := by
  cases hw : s.worked
  · cases b <;> cases ht : s.token <;> simp [decideStep, State.withToken, hw, ht]
  · simp [decideStep, State.withToken, hw]

/-- Settles O45: outside `DECIDE` and `PARKED` the step commutes with the change of `token`. -/
theorem tokenChangesNoComputedValue : Obligations.TokenChangesNoComputedValue := by
  intro s t b h
  change ∃ u, engineStep (s.withToken b) = .next u ∧ _
  rcases engineStep_cases h with ⟨hr, rfl⟩ | ⟨hr, ⟨hp, rfl⟩ | ⟨f, v, t', hp, hi, rfl⟩ | ⟨hp, hi, rfl⟩ | ⟨t', hp, hi, rfl⟩ |
    ⟨hp, rfl⟩ | ⟨hp, rfl⟩ | ⟨hp, rfl⟩ | ⟨hp, rfl⟩⟩
  · exact ⟨_, engineStep_noThread hr, rfl⟩
  · exact ⟨_, engineStep_check hr hp, by rw [checkStep_withToken]; rfl⟩
  · refine ⟨{ t'.withToken b with worked := true }, ?_, rfl⟩
    rw [engineStep_drain (s := s.withToken b) hr hp, drainStep, iterate_withToken, hi]; rfl
  · refine ⟨{ s.withToken b with ph := .lowtest }, ?_, rfl⟩
    rw [engineStep_drain (s := s.withToken b) hr hp, drainStep, iterate_withToken, hi]; rfl
  · refine ⟨(panicStop t').withToken b, ?_, rfl⟩
    rw [engineStep_drain (s := s.withToken b) hr hp, drainStep, iterate_withToken, hi]
    exact congrArg _ (answerStop_withToken .panic b t')
  · exact ⟨_, engineStep_lowtest hr hp, by rw [lowtestStep_withToken]; rfl⟩
  · exact ⟨_, engineStep_refill hr hp, by rw [refillStep_withToken]; rfl⟩
  · exact ⟨_, engineStep_decide hr hp, decideStep_withToken b s⟩
  · exact ⟨_, engineStep_parked hr hp, rfl⟩

/-! ### Callback ports -/

/-- What a command on a callback port can make of state `s` (R113). -/
inductive CallbackEffect (s : State) : State → Prop where
  | reply (st : Status) (d1 d0 : BitVec 32) : CallbackEffect s (s.reply st d1 d0)
  | pushMic (v : Sample) (own : s.curPort = .mic) :
      CallbackEffect s ({ s with mic := { s.mic with buf := s.mic.buf ++ [v] } }.reply .ok 0 0)
  | pushRef (v : Sample) (own : s.curPort = .ref) :
      CallbackEffect s ({ s with ref := { s.ref with buf := s.ref.buf ++ [v] } }.reply .ok 0 0)
  | popOut (v : Sample) (rest : List Sample) (own : s.curPort = .out) (oldest : s.out.buf = v :: rest) :
      CallbackEffect s ({ s with out := { s.out with buf := rest } }.reply .ok 0 v)
  | unpark (own : s.curPort = .mic) : CallbackEffect s (unparkCommand s)

theorem onlyOn_ne_never {own p : Port} (h : onlyOn own p ≠ .never) : p = own := by
  by_contra hne; exact h (if_neg hne)

theorem engineOnly_ne_never {p : Port} (h : engineOnly p ≠ .never) : p = .ctl := by
  by_contra hne; exact h (if_neg hne)

/-- Every operation of the engine and of the controller is refused on a callback port. -/
theorem exec_callback_effect {i : Instr} {s t : State} (hp : s.curPort ≠ .ctl) (h : exec i s = .next t) :
    CallbackEffect s t := by
  cases exec_effect h with
  | reply _ st d1 d0 => exact .reply st d1 d0
  | push _ q v acc =>
    cases q with
    | mic => exact .pushMic v (onlyOn_ne_never acc)
    | ref => exact .pushRef v (onlyOn_ne_never acc)
    | out => exact absurd (engineOnly_ne_never acc) hp
  | pop _ q v rest acc _ hb =>
    cases q with
    | mic | ref => exact absurd (engineOnly_ne_never acc) hp
    | out => exact .popOut v rest (onlyOn_ne_never acc) hb
  | unpark own => exact .unpark own
  | start ctl | stop ctl | stopAgain ctl => exact absurd ctl hp
  | bqinitLp _ _ _ d | bqinitHp _ _ _ d | bqtick _ _ _ d | casc _ d | dlpush _ d | dlinit d | adapt _ d | adaptFault _ d
  | enginit _ d | iterOk d | iterFault d | runonce d | telemEn _ _ d | thr _ _ d => exact absurd d.1 hp

/-- Settles O52: in each case of `exec_callback_effect` one FIFO at most changes, and only as its role allows. -/
theorem callbackPortsCannotTouchTheEngine : Obligations.CallbackPortsCannotTouchTheEngine := by
  intro i s t hp h
  cases exec_callback_effect hp h with
  | reply => exact ⟨rfl, rfl, by simp⟩
  | pushMic v own => exact ⟨rfl, rfl, by simp [own]⟩
  | pushRef v own => exact ⟨rfl, rfl, by simp [own]⟩
  | popOut v rest own oldest => exact ⟨rfl, rfl, by simp [own, oldest]⟩
  | unpark own => exact ⟨rfl, rfl, by simp +contextual [own, unparkCommand]⟩

end Sys2Proof.Machine
end

section
/-! The invariant is kept by every step, one clause at a time: every step answers a state while the storages hold `N` samples,
the run-control registers stay consistent, no weight becomes a NaN unless `FAULT` is raised, the storages keep their form. -/

namespace Sys2Proof.Machine

/-! ### Every step answers a state -/

/-- The outcome is a next state: no fault and no refusal of the host's interface. -/
def Answers (o : StepOutcome) : Prop := ∃ t, o = .next t

theorem answers_next (t : State) : Answers (.next t) := ⟨t, rfl⟩

/-- A port check answers wherever the operation behind it does. -/
theorem answers_gate {acc : Port → Access} {s : State} {run : StepOutcome} (h : Answers run) : Answers (gate acc s run) := by
  unfold gate
  cases acc s.curPort with
  | never => exact answers_next _
  | always => exact h
  | held => cases s.sched with
    | idle | stopped => exact h
    | running | stopRequested | faulted => exact answers_next _

/-- A storage that holds `n` elements has every element below `n`. -/
theorem answers_readStorage {n : Nat} {store : List Sample} (h : n ≤ store.length) (i : Nat) (s : State) :
    Answers (readStorage n store i s) := by
  unfold readStorage
  split
  · exact answers_next _
  · rw [List.getElem?_eq_getElem (by omega)]; exact answers_next _

section Answers

variable {s : State} (hn : 0 < s.cfg.n) (hwf : Memory.wf s = true)

include hwf in
theorem answers_adaptCommand (x : Sample) : Answers (adaptCommand x s) := by
  obtain ⟨hdl, hw, -⟩ := (wf_iff s).1 hwf
  have hfits : s.windowFits = true := decide_eq_true (hdl.trans hw.symm)
  exact ⟨_, if_pos hfits⟩

include hn hwf

theorem answers_iterCommand : Answers (iterCommand s) := by
  unfold iterCommand
  cases h : iterate s with
  | mismatch => exact absurd h (iterate_ne_mismatch hn hwf)
  | noWork | nanWeight | full | ok => exact answers_next _

theorem answers_drainStep : Answers (drainStep s) := by
  unfold drainStep
  cases h : iterate s with
  | mismatch => exact absurd h (iterate_ne_mismatch hn hwf)
  | noWork | nanWeight | full | ok => exact answers_next _

theorem answers_runOnceStep (r : RunOnce) : Answers (runOnceStep r s) := by
  unfold runOnceStep
  cases r.phase with
  | lowtest | refill => exact answers_next _
  | drain => cases h : iterate s with
    | mismatch => exact absurd h (iterate_ne_mismatch hn hwf)
    | noWork | nanWeight | full | ok => exact answers_next _

theorem answers_engineStep : Answers (engineStep s) := by
  unfold engineStep
  split
  · cases s.ph with
    | drain => exact answers_drainStep hn hwf
    | check | lowtest | refill | decide | parked => exact answers_next _
  · exact answers_next _

theorem answers_exec (i : Instr) : Answers (exec i s) := by
  obtain ⟨hdl, hw, -⟩ := (wf_iff s).1 hwf
  cases i with
  | dlrd j => exact answers_gate (answers_readStorage hdl.ge j s)
  | wrd j => exact answers_gate (answers_readStorage hw.ge j s)
  | adapt x => exact answers_gate (answers_adaptCommand hwf x)
  | iter => exact answers_gate (answers_iterCommand hn hwf)
  | runonce => exact answers_gate (answers_runOnceStep hn hwf _)
  | _ => exact answers_gate (answers_next _)

end Answers

/-- What a turn that was fetched comes to. -/
def Fetched.outcome : Fetched → StepOutcome
  | .done o => o
  | .issue i s => exec i s

theorem step_eq_outcome (s : State) : step s = (fetch s).outcome := rfl

theorem answers_issueNext {s : State} (hn : 0 < s.cfg.n) (hwf : Memory.wf s = true) (p : Port) :
    Answers (issueNext p s).outcome := by
  unfold issueNext
  cases s.inbox.at p with
  | nil => exact answers_next s
  | cons w ws =>
    dsimp only
    cases decode w with
    | error e => exact answers_next _
    | ok i => exact answers_exec (s := { s with inbox := s.inbox.put p ws, curPort := p }) hn hwf i

theorem answers_takeTurn {s : State} (hn : 0 < s.cfg.n) (hwf : Memory.wf s = true) (tn : Turn) :
    Answers (takeTurn tn s).outcome := by
  cases tn with
  | reset => exact answers_next _
  | agent a => cases a with
    | mic => exact answers_issueNext hn hwf .mic
    | ref => exact answers_issueNext hn hwf .ref
    | out => exact answers_issueNext hn hwf .out
    | eng => exact answers_engineStep hn hwf
    | ctl =>
      simp only [takeTurn, controllerTurn]
      cases s.ctl with
      | ready => exact answers_issueNext hn hwf .ctl
      | waitStop => exact answers_next s
      | runOnce r => exact answers_runOnceStep hn hwf r

/-- With storages of `N` samples every step has a next state. -/
theorem answers_step {s : State} (hn : 0 < s.cfg.n) (hwf : Memory.wf s = true) : Answers (step s) := by
  rw [step_eq_outcome, fetch]
  cases s.turns with
  | nil => exact answers_takeTurn hn hwf _
  | cons tn ts => exact answers_takeTurn (s := { s with turns := ts }) hn hwf tn

/-! ### The storages -/

theorem wf_answerStop (st : Status) (s : State) : Memory.wf (answerStop st s) = Memory.wf s := by
  unfold answerStop; split <;> rfl

theorem wf_engineStep {s t : State} (hwf : Memory.wf s = true) (h : engineStep s = .next t) : Memory.wf t = true := by
  cases (engineStep_effect h).1 with
  | noThread | newPass | enter | starved | useToken => exact hwf
  | stopped => exact (wf_answerStop ..).trans hwf
  | worked f v t' hi => exact (wf_iterate_ok hwf hi :)
  | fault t' hi => exact (wf_answerStop ..).trans (wf_iterate_nanWeight hwf hi)
  | refill => exact wf_pushSilence hwf

/-! ### The weights -/

/-- With `FAULT` = 0 no weight is a NaN (R39). -/
def State.WeightsClean (s : State) : Prop := s.fault = false → ∀ x ∈ s.w, s.num.isnan x = false

/-- States with the same parameters, weights and `FAULT` are clean together. -/
theorem State.WeightsClean.congr {s t : State} (h : s.WeightsClean) (hc : t.cfg = s.cfg) (hw : t.w = s.w)
    (hf : t.fault = s.fault) : t.WeightsClean := by
  unfold State.WeightsClean
  rwa [hw, hf, num_congr hc]

theorem weightsClean_of_fault {s : State} (h : s.fault = true) : s.WeightsClean :=
  fun hf => absurd (h.symm.trans hf) (by decide)

theorem fault_iterate_nanWeight {s t : State} (h : iterate s = .nanWeight t) : t.fault = true := by
  obtain ⟨m, r, ms, rs, rfl⟩ := iterate_eq_nanWeight h
  rfl

theorem fault_answerStop (st : Status) (s : State) : (answerStop st s).fault = s.fault := by
  unfold answerStop; split <;> rfl

/-- `adapt` without the fault leaves clean weights clean (R178). -/
theorem weightsClean_afterAdapt {s : State} (h : s.WeightsClean) {x : Sample} (hok : (s.adaptOn x).nan = false) :
    (s.afterAdapt (s.adaptOn x)).WeightsClean :=
  fun hf => adapt_no_nan_weight s.num s.mu s.epsr s.thr s.w s.dl x s.draws hok (h hf)

theorem weightsClean_iterate_ok {s t : State} {f v : Sample} (h : s.WeightsClean) (hi : iterate s = .ok f v t) :
    t.WeightsClean := by
  obtain ⟨m, r, ms, rs, -, hok, rfl⟩ := iterate_eq_ok hi
  refine State.WeightsClean.congr (s := afterStepFive m r ms rs s) (fun hf => ?_) (by simp) (by simp) (by simp)
  exact adapt_no_nan_weight s.num s.mu s.epsr s.thr s.w (shiftIn s.dl r) m s.draws hok (h hf)

theorem weightsClean_runOnceStep {r : RunOnce} {s t : State} (h : s.WeightsClean) (ht : runOnceStep r s = .next t) :
    t.WeightsClean := by
  rcases runOnceStep_cases ht with ⟨f, v, t', -, hi, rfl⟩ | ⟨-, -, rfl⟩ | ⟨t', -, hi, rfl⟩ | ⟨-, -, rfl⟩ | ⟨-, -, rfl⟩ | rfl
  · exact (weightsClean_iterate_ok h hi :)
  · exact h
  · exact weightsClean_of_fault (fault_iterate_nanWeight hi :)
  · exact h
  · exact h.congr (by simp) (by simp) (by simp)
  · exact h

theorem weightsClean_engineStep {s t : State} (h : s.WeightsClean) (ht : engineStep s = .next t) : t.WeightsClean := by
  cases (engineStep_effect ht).1 with
  | noThread | newPass | enter | starved | useToken => exact h
  | stopped => unfold answerStop; split <;> exact h
  | worked f v t' hi => exact (weightsClean_iterate_ok h hi :)
  | fault t' hi => exact weightsClean_of_fault ((fault_answerStop ..).trans (fault_iterate_nanWeight hi))
  | refill => exact h.congr (by simp) (by simp) (by simp)

/-- Every operation keeps the weights clean, under a `NUM` that calls no finite sample a NaN: `ENGINIT` draws finite ones. -/
theorem weightsClean_exec {i : Instr} {s t : State} (hnum : ∀ x, Config.IsFinite x → s.num.isnan x = false)
    (h : s.WeightsClean) (ht : exec i s = .next t) : t.WeightsClean := by
  cases exec_effect ht with
  | reply | bqinitLp | bqinitHp | casc | dlpush | dlinit | start | stop | stopAgain | unpark | telemEn | thr => exact h
  | push _ q | pop _ q => cases q <;> exact h
  | bqtick _ f => cases f <;> exact h
  | adapt x _ _ hok => exact (weightsClean_afterAdapt h hok :)
  | adaptFault => exact weightsClean_of_fault rfl
  | enginit => exact fun _ x hx => hnum x (w0_finite _ _ x hx)
  | iterOk _ f v t' hi => exact (weightsClean_iterate_ok h hi :)
  | iterFault _ t' hi => exact weightsClean_of_fault (fault_iterate_nanWeight hi :)
  | runonce _ _ hr => exact weightsClean_runOnceStep h hr

/-! ### The run-control registers -/

/-- The registers that the run-control clauses of `Inv` speak of. -/
structure RunControl where
  sched : Sched
  ph : Phase
  killPending : Bool
  fault : Bool
  ctl : CtlBusy

/-- The run-control registers of a state. -/
def State.runControl (s : State) : RunControl :=
  { sched := s.sched, ph := s.ph, killPending := s.killPending, fault := s.fault, ctl := s.ctl }

/-- The run-control clauses of `Inv`. -/
structure RunControl.Consistent (c : RunControl) : Prop where
  phase : c.sched.held = true → c.ph = .check
  faulted : c.fault = true ↔ c.sched = .faulted
  requested : c.sched = .stopRequested → c.killPending = true
  pending : c.killPending = true → c.sched = .stopRequested ∨ c.sched = .faulted
  waits : c.ctl = .waitStop ↔ c.sched = .stopRequested
  direct : (∃ r, c.ctl = .runOnce r) → c.sched.held = true

theorem Inv.consistent {s : State} (h : Inv s) : s.runControl.Consistent :=
  { phase := h.phase, faulted := h.faulted, requested := h.requested, pending := h.pending, waits := h.waits
    direct := h.direct }

/-- The invariant of a state that continues `s`, from its clauses on what did change. -/
theorem Inv.of_continues {s t : State} (h : Inv s) (hc : Continues s t) (hwf : Memory.wf t = true)
    (hw : (∀ x, Config.IsFinite x → s.num.isnan x = false) → t.WeightsClean) (hr : t.runControl.Consistent) : Inv t where
  config := hc.cfg ▸ h.config
  caps := by rw [hc.micCap, hc.refCap, hc.outCap, hc.cfg]; exact h.caps
  storage := hwf
  weights := by rw [num_congr hc.cfg]; exact fun hnum => num_congr hc.cfg ▸ hw hnum
  phase := hr.phase
  faulted := hr.faulted
  requested := hr.requested
  pending := hr.pending
  waits := hr.waits
  direct := hr.direct

theorem held_eq_false_of_threadRuns {c : Sched} (h : c.threadRuns = true) : c.held = false := by
  cases c with
  | running | stopRequested => rfl
  | idle | stopped | faulted => cases h

theorem ne_faulted_of_threadRuns {c : Sched} (h : c.threadRuns = true) : c ≠ .faulted := by rintro rfl; cases h

theorem ne_faulted_of_held {c : Sched} (h : c.held = true) : c ≠ .faulted := by rintro rfl; cases h

theorem ne_stopRequested_of_held {c : Sched} (h : c.held = true) : c ≠ .stopRequested := by rintro rfl; cases h

/-- The fault leaves consistent registers once no transaction of `A_CTL` is open, whatever they were (R252). -/
theorem consistent_fault {c : RunControl} (ready : c.ctl = .ready) :
    { c with sched := .faulted, fault := true }.Consistent where
  phase := nofun
  faulted := by simp
  requested := nofun
  pending := fun _ => .inr rfl
  waits := by simp [ready]
  direct := by simp [ready]

namespace RunControl.Consistent

variable {c : RunControl} (h : c.Consistent)

include h

theorem not_fault (hne : c.sched ≠ .faulted) : c.fault = false := by simpa using mt h.faulted.1 hne

/-- `A_CTL` holds the engine and opens, continues or ends a `RUNONCE` (R206). -/
theorem withCtl (held : c.sched.held = true) {x : CtlBusy} (hx : x ≠ .waitStop) : { c with ctl := x }.Consistent :=
  { h with waits := iff_of_false hx (ne_stopRequested_of_held held), direct := fun _ => held }

/-- The engine thread enters a phase (R224 to R229). -/
theorem withPhase (runs : c.sched.threadRuns = true) (p : Phase) : { c with ph := p }.Consistent :=
  { h with phase := fun held => absurd held (by simp [held_eq_false_of_threadRuns runs]) }

/-- `START` (R221). -/
theorem start (held : c.sched.held = true) (ready : c.ctl = .ready) :
    { c with sched := .running, ph := .check, killPending := false }.Consistent where
  phase := fun _ => rfl
  faulted := by simp [h.not_fault (ne_faulted_of_held held)]
  requested := nofun
  pending := nofun
  waits := by simp [ready]
  direct := by simp [ready]

/-- `STOP`, the request (R222). -/
theorem request (running : c.sched = .running) :
    { c with killPending := true, sched := .stopRequested, ctl := .waitStop }.Consistent where
  phase := nofun
  faulted := by simp [h.not_fault (by simp [running])]
  requested := fun _ => rfl
  pending := fun _ => .inl rfl
  waits := by simp
  direct := by simp

/-- The completion of a `STOP` (R223). -/
theorem stop (runs : c.sched.threadRuns = true) (check : c.ph = .check) :
    { c with sched := .stopped, killPending := false, ctl := .ready }.Consistent where
  phase := fun _ => check
  faulted := by simp [h.not_fault (ne_faulted_of_threadRuns runs)]
  requested := nofun
  pending := nofun
  waits := by simp
  direct := by simp

/-- A pending shutdown signal that the engine thread sees is that of a waiting `STOP` (R49, R222). -/
theorem waiting (runs : c.sched.threadRuns = true) (kill : c.killPending = true) : c.ctl = .waitStop :=
  h.waits.2 ((h.pending kill).resolve_right (ne_faulted_of_threadRuns runs))

/-- While the thread runs `A_CTL` is in no `RUNONCE` (R206). -/
theorem ready_of_not_waiting (runs : c.sched.threadRuns = true) (hw : c.ctl ≠ .waitStop) : c.ctl = .ready := by
  cases hc : c.ctl with
  | ready => rfl
  | waitStop => exact absurd hc hw
  | runOnce r => exact absurd (h.direct ⟨r, hc⟩) (by simp [held_eq_false_of_threadRuns runs])

end RunControl.Consistent

theorem runControl_pushSilence (s : State) : (pushSilence s).runControl = s.runControl := by simp [State.runControl]

theorem runControl_iterate_ok {s t : State} {f v : Sample} (h : iterate s = .ok f v t) : t.runControl = s.runControl := by
  obtain ⟨m, r, ms, rs, -, -, rfl⟩ := iterate_eq_ok h
  simp [State.runControl, afterStepFive, afterStepThree]

theorem runControl_iterate_nanWeight {s t : State} (h : iterate s = .nanWeight t) :
    t.runControl = { s.runControl with sched := .faulted, fault := true } := by
  obtain ⟨m, r, ms, rs, rfl⟩ := iterate_eq_nanWeight h
  rfl

/-- A step of a `RUNONCE` leaves the engine with `A_CTL`, or raises the fault and ends. -/
theorem consistent_runOnceStep {r : RunOnce} {s t : State} (h : s.runControl.Consistent) (held : s.sched.held = true)
    (ht : runOnceStep r s = .next t) : t.runControl.Consistent := by
  have hctl (x : CtlBusy) (hx : x ≠ .waitStop) : { s.runControl with ctl := x }.Consistent := h.withCtl held hx
  rcases runOnceStep_cases ht with ⟨f, v, t', -, hi, rfl⟩ | ⟨-, -, rfl⟩ | ⟨t', -, hi, rfl⟩ | ⟨-, -, rfl⟩ | ⟨-, -, rfl⟩ | rfl
  · have hc := hctl (.runOnce { r with n := r.n + 1 }) nofun
    rwa [← runControl_iterate_ok hi] at hc
  · exact hctl _ nofun
  · have hc := consistent_fault (c := { s.runControl with ctl := .ready }) rfl
    have hi := runControl_iterate_nanWeight hi
    change { t'.runControl with ctl := .ready }.Consistent
    rwa [hi]
  · exact hctl _ nofun
  · have hc := hctl (.runOnce { r with z := r.z + 1 }) nofun
    rwa [← runControl_pushSilence] at hc
  · exact hctl .ready nofun

theorem consistent_engineStep {s t : State} (h : s.runControl.Consistent) (ht : engineStep s = .next t) :
    t.runControl.Consistent := by
  obtain ⟨heffect, runs | rfl⟩ := engineStep_effect ht
  · cases heffect with
    | noThread => exact h
    | newPass | enter | starved | useToken => exact h.withPhase runs _
    | stopped hp kill =>
      rw [answerStop_of_waiting (by exact h.waiting runs kill)]
      exact h.stop runs hp
    | worked f v t' hi => exact (runControl_iterate_ok hi ▸ h :)
    | fault t' hi =>
      have hrc := runControl_iterate_nanWeight hi
      by_cases hw : t'.ctl = .waitStop
      · rw [answerStop_of_waiting hw]
        change { t'.runControl with ctl := .ready }.Consistent
        rw [hrc]; exact consistent_fault (c := { s.runControl with ctl := .ready }) rfl
      · have hctl : t'.ctl = s.ctl := congrArg RunControl.ctl hrc
        rw [answerStop_of_not_waiting hw, hrc]
        exact consistent_fault (h.ready_of_not_waiting runs fun hwait => hw (hctl.trans hwait))
    | refill => rwa [runControl_pushSilence]
  · exact h

/-- Every operation keeps the registers consistent, when `A_CTL` issues only with none of its transactions open. -/
theorem consistent_exec {i : Instr} {s t : State} (h : s.runControl.Consistent) (ready : s.curPort = .ctl → s.ctl = .ready)
    (ht : exec i s = .next t) : t.runControl.Consistent := by
  cases exec_effect ht with
  | reply | bqinitLp | bqinitHp | casc | dlpush | dlinit | adapt | enginit | unpark | telemEn | thr => exact h
  | push _ q | pop _ q => cases q <;> exact h
  | bqtick _ f => cases f <;> exact h
  | adaptFault _ d => exact consistent_fault (c := s.runControl) (ready d.1)
  | iterOk _ f v t' hi => exact (runControl_iterate_ok hi ▸ h :)
  | iterFault d t' hi =>
    change t'.runControl.Consistent
    rw [runControl_iterate_nanWeight hi]; exact consistent_fault (ready d.1)
  | runonce d _ hr => exact consistent_runOnceStep h d.2 hr
  | start ctl held => exact h.start held (ready ctl)
  | stop _ running => exact h.request running
  | stopAgain ctl requested => exact absurd ((ready ctl).symm.trans (h.waits.2 requested)) nofun

/-! ### The invariant -/

/-- The schedule, the waiting words and the noted port are no part of the invariant. -/
theorem Inv.schedule {s : State} (h : Inv s) (inbox : Inbox) (turns : List Turn) (p : Port) :
    Inv { s with inbox := inbox, turns := turns, curPort := p } :=
  { config := h.config, caps := h.caps, storage := h.storage, weights := h.weights, phase := h.phase, faulted := h.faulted
    requested := h.requested, pending := h.pending, waits := h.waits, direct := h.direct }

theorem Inv.taps_pos {s : State} (h : Inv s) : 0 < s.cfg.n := h.config.taps.1

theorem inv_exec {i : Instr} {s t : State} (h : Inv s) (ready : s.curPort = .ctl → s.ctl = .ready)
    (ht : exec i s = .next t) : Inv t :=
  h.of_continues (continues_exec ht) (wf_exec h.taps_pos h.storage ht) (fun hnum => weightsClean_exec hnum (h.weights hnum) ht)
    (consistent_exec h.consistent ready ht)

theorem inv_runOnceStep {r : RunOnce} {s t : State} (h : Inv s) (held : s.sched.held = true)
    (ht : runOnceStep r s = .next t) : Inv t :=
  h.of_continues (continues_runOnceStep ht) (wf_runOnceStep h.storage ht)
    (fun hnum => weightsClean_runOnceStep (h.weights hnum) ht) (consistent_runOnceStep h.consistent held ht)

theorem inv_engineStep {s t : State} (h : Inv s) (ht : engineStep s = .next t) : Inv t :=
  h.of_continues (continues_engineStep ht) (wf_engineStep h.storage ht)
    (fun hnum => weightsClean_engineStep (h.weights hnum) ht) (consistent_engineStep h.consistent ht)

/-- Every step keeps the invariant. -/
theorem inv_step {s t : State} (h : Inv s) (ht : step s = .next t) : Inv t := by
  have hturn : Inv s.atTurn := h.schedule s.inbox s.turns.tail s.curPort
  have hissue (p : Port) (ws : List Command) : Inv (s.issuing p ws) := h.schedule (s.inbox.put p ws) s.turns.tail p
  cases step_cases ht with
  | reset => exact (inv_boot h.config s.draws).schedule s.inbox s.turns.tail .ctl
  | stay => exact hturn
  | runOnce r t busy hr => exact inv_runOnceStep hturn (h.direct ⟨r, busy⟩) hr
  | engine t he => exact inv_engineStep hturn he
  | exec p w ws i t _ ready _ he => exact inv_exec (hissue p ws) ready he
  | illegal p w ws =>
    have hp := hissue p ws
    exact hp.of_continues (continues_answer ..) hp.storage hp.weights hp.consistent

/-- Settles O55: `answers_step` gives the next state and `inv_step` its invariant. -/
theorem everyStepKeepsTheInvariant : Obligations.EveryStepKeepsTheInvariant := by
  intro s h
  obtain ⟨t, ht⟩ := answers_step h.taps_pos h.storage
  exact ⟨t, ht, inv_step h ht⟩

end Sys2Proof.Machine
end

section
/-! A turn runs the decoded operation; pushes and pops in a row. -/

namespace Sys2Proof.Machine

/-! ### Turns -/

/-- Settles O5: `step_onTurn_of_decode`, the fetch of a port's turn followed by `exec`. -/
theorem stepRunsTheDecodedInstruction : Obligations.StepRunsTheDecodedInstruction :=
  fun _ _ _ _ _ hdecode hnext hready => step_onTurn_of_decode hdecode hnext hready

/-! ### Pushes and pops in a row -/

/-- On a full FIFO a push fails (R131). -/
theorem push_of_full {q : Fifo} (v : Sample) (h : q.buf.length = q.cap) : q.push v = none := if_pos h

/-- Samples that fit are appended in order. -/
theorem pushAll_of_fits {q : Fifo} {vs : List Sample} (h : q.buf.length + vs.length ≤ q.cap) :
    q.pushAll vs = some { q with buf := q.buf ++ vs } := by
  induction vs generalizing q with
  | nil => simp [Fifo.pushAll]
  | cons v vs ih =>
    rw [List.length_cons] at h
    have hpush := push_of_lt v (show q.buf.length < q.cap by omega)
    have hrest := ih (q := { q with buf := q.buf ++ [v] }) (by simp; omega)
    simpa [Fifo.pushAll, hpush] using hrest

/-- As many pops as a prefix is long give the prefix and leave what stands behind it. -/
theorem popAll_of_append {q : Fifo} {vs rest : List Sample} (h : q.buf = vs ++ rest) :
    q.popAll vs.length = some (vs, { q with buf := rest }) := by
  induction vs generalizing q with
  | nil => rw [← show q.buf = rest from h]; rfl
  | cons v vs ih =>
    have hpop := pop_of_cons (h : q.buf = v :: (vs ++ rest))
    have hrest := ih (q := { q with buf := vs ++ rest }) rfl
    simp [Fifo.popAll, hpop, hrest]

/-- Settles O13: the pushes make `vs` the contents, and the pops take this prefix off and leave the empty FIFO (R137). -/
theorem fifoRoundTrip : Obligations.FifoRoundTrip := by
  intro q vs hempty hfit
  refine ⟨{ q with buf := vs }, ?_, ?_, fun hfull v => push_of_full v hfull⟩
  · simpa [hempty] using pushAll_of_fits (q := q) (vs := vs) (by simpa [hempty] using hfit)
  · have hpops := popAll_of_append (q := { q with buf := vs }) (List.append_nil vs).symm
    rwa [← hempty] at hpops

end Sys2Proof.Machine
end

section
/-! The command word (R101 to R112): decoding undoes encoding, and the legal words are the encodings, row by row of the opcode
table. -/

namespace Sys2Proof

open Machine

/-! ### Fields of a word -/

@[simp] theorem opField_and (v w : Command) : opField (v &&& w) = opField v &&& opField w := BitVec.extractLsb'_and

@[simp] theorem unitField_and (v w : Command) : unitField (v &&& w) = unitField v &&& unitField w := BitVec.extractLsb'_and

@[simp] theorem auxField_and (v w : Command) : auxField (v &&& w) = auxField v &&& auxField w := BitVec.extractLsb'_and

@[simp] theorem dataField_and (v w : Command) : dataField (v &&& w) = dataField v &&& dataField w := BitVec.extractLsb'_and

/-- Words with the same four fields are the same word. -/
theorem eq_iff_fields {v w : Command} : v = w ↔
    opField v = opField w ∧ unitField v = unitField w ∧ auxField v = auxField w ∧ dataField v = dataField w := by
  refine ⟨by rintro rfl; simp, fun ⟨hop, hunit, haux, hdata⟩ => ?_⟩
  rw [← assemble_fields v, hop, hunit, haux, hdata, assemble_fields w]

/-- Bits 19:3 of `aux` are zero (R110, R111). -/
theorem and_modeMask_eq_zero_iff (aux : BitVec 20) : aux &&& 0xFFFF8 = 0 ↔ aux.toNat / 8 = 0 := by
  have hsplit : aux.extractLsb' 3 17 ++ aux.extractLsb' 0 3 = aux := by
    ext k hk
    simp only [BitVec.getElem_append, BitVec.getElem_extractLsb']
    split <;> (rw [← BitVec.getLsbD_eq_getElem]; congr 1; omega)
  have hand : aux &&& 0xFFFF8 = aux.extractLsb' 3 17 ++ 0#3 := by
    rw [show (0xFFFF8 : BitVec 20) = BitVec.allOnes 17 ++ 0#3 from rfl]
    conv_lhs => rw [← hsplit]
    rw [BitVec.and_append, BitVec.and_allOnes, BitVec.and_zero]
  have hlt := aux.isLt
  rw [hand, ← BitVec.toNat_inj, BitVec.toNat_append, BitVec.extractLsb'_toNat, Nat.shiftRight_eq_div_pow, Nat.shiftLeft_eq]
  simp only [BitVec.ofNat_eq_ofNat, BitVec.toNat_ofNat, Nat.zero_mod, Nat.or_zero, Nat.reducePow]
  omega

/-! ### Reading the operands -/

section Read

variable {aux : BitVec 20} {data : Sample} {i : Instr}

@[simp] theorem read_plain_eq_ok {j : Instr} : (Form.plain j).read aux data = .ok i ↔ aux = 0 ∧ data = 0 ∧ j = i := by
  simp only [Form.read, ne_eq, ite_not]
  split_ifs <;> simp_all

@[simp] theorem read_sample_eq_ok {g : Sample → Instr} : (Form.sample g).read aux data = .ok i ↔ aux = 0 ∧ g data = i := by
  simp only [Form.read, ne_eq, ite_not]
  split_ifs <;> simp_all

@[simp] theorem read_index_eq_ok {g : Nat → Instr} : (Form.index g).read aux data = .ok i ↔ data = 0 ∧ g aux.toNat = i := by
  simp only [Form.read, ne_eq, ite_not]
  split_ifs <;> simp_all

@[simp] theorem read_indexValue_eq_ok {g : Nat → Sample → Instr} :
    (Form.indexValue g).read aux data = .ok i ↔ g aux.toNat data = i := by simp [Form.read]

theorem read_mode_eq_ok {g : Mode → Sample → Instr} :
    (Form.mode g).read aux data = .ok i ↔ ∃ m : Mode, m.code = aux.toNat ∧ g m data = i := by
  unfold Form.read
  constructor
  · dsimp only
    split
    · rintro ⟨⟩
    · split
      next m hm =>
        intro h
        exact ⟨m, by have := code_of_modeOfCode hm; omega, by simpa using h⟩
      next => rintro ⟨⟩
  · rintro ⟨m, hm, rfl⟩
    rw [← hm]
    cases m <;> rfl

end Read

/-- The decoder reads an assembled word by the form of its `op` and `unit`. -/
theorem decode_of_read {op : BitVec 8} {unit : BitVec 4} {aux : BitVec 20} {data : Sample} {f : Form} {i : Instr}
    (hf : formOf op.toNat unit.toNat = .ok f) (hr : f.read aux data = .ok i) : decode (assemble op unit aux data) = .ok i :=
  (decode_assemble op unit aux data hf).trans hr

/-- An index that fits `aux` is read back (R106). -/
theorem toNat_ofNat_of_fits {n : Nat} (h : n < 2 ^ 20) : (BitVec.ofNat 20 n).toNat = n := Nat.mod_eq_of_lt h

/-- So is the code of a mode (R110). -/
theorem toNat_ofNat_code (m : Mode) : (BitVec.ofNat 20 m.code).toNat = m.code := by cases m <;> rfl

/-- Decoding an encoded operation whose operands fit gives it back: `op` and `unit` select its form, which reads its operands. -/
theorem decode_encode {i : Instr} (h : i.WellFormed) : decode (encode i) = .ok i := by
  cases i with
  | bqinitLp m c | bqinitHp m c => exact decode_of_read (by rfl) (read_mode_eq_ok.2 ⟨m, (toNat_ofNat_code m).symm, rfl⟩)
  | dlrd n | wrd n | csrr n =>
    exact decode_of_read (by rfl) (read_index_eq_ok.2 ⟨rfl, by rw [toNat_ofNat_of_fits (of_decide_eq_true h)]⟩)
  | csrw n v =>
    exact decode_of_read (by rfl) (read_indexValue_eq_ok.2 (by rw [toNat_ofNat_of_fits (of_decide_eq_true h)]))
  | _ => exact decode_of_read (by rfl) (by rfl)

/-- Settles O1. -/
theorem decodeEncodeRoundTrip : Obligations.DecodeEncodeRoundTrip := fun _ h => decode_encode h

/-- Settles O4: each worked word is the encoding of its operation. -/
theorem workedWordsDecode : Obligations.WorkedWordsDecode :=
  ⟨decode_encode (i := .pushMic 0x3F800000) rfl, decode_encode (i := .popOut) rfl,
    decode_encode (i := .bqinitHp .highPass 0x43960000) rfl, decode_encode (i := .dlrd 2047) rfl,
    decode_encode (i := .csrw 4 0x7F7FFFFF) rfl, rfl⟩

/-! ### The opcode map -/

/-- A legal word: its `op` and `unit` have a form, and the form reads the operation. -/
theorem decode_eq_ok_iff {w : Command} {i : Instr} : decode w = .ok i ↔
    ∃ f, formOf (opField w).toNat (unitField w).toNat = .ok f ∧ f.read (auxField w) (dataField w) = .ok i := by
  unfold decode
  cases formOf (opField w).toNat (unitField w).toNat <;> simp

/-- The operations of a form are encoded under `op` and `unit`, each operand in its field, and are well formed when their index
fits `aux`. -/
def Form.EncodesAt (op : BitVec 8) (unit : BitVec 4) : Form → Prop
  | .plain i => encode i = assemble op unit 0 0 ∧ i.WellFormed
  | .sample g => ∀ x, encode (g x) = assemble op unit 0 x ∧ (g x).WellFormed
  | .index g => ∀ n, encode (g n) = assemble op unit (BitVec.ofNat 20 n) 0 ∧ (n < 2 ^ 20 → (g n).WellFormed)
  | .indexValue g => ∀ n x, encode (g n x) = assemble op unit (BitVec.ofNat 20 n) x ∧ (n < 2 ^ 20 → (g n x).WellFormed)
  | .mode g => ∀ m x, encode (g m x) = assemble op unit (BitVec.ofNat 20 m.code) x ∧ (g m x).WellFormed

/-- The bits of `aux` that a form asks to be zero (R105, R110). -/
def Form.auxMask : Form → BitVec 20
  | .plain _ | .sample _ => BitVec.allOnes 20
  | .index _ | .indexValue _ => 0
  | .mode _ => 0xFFFF8

/-- The bits of `data` that a form asks to be zero (R105). -/
def Form.dataMask : Form → BitVec 32
  | .plain _ | .index _ => BitVec.allOnes 32
  | .sample _ | .indexValue _ | .mode _ => 0

/-- The form's `aux` holds a mode code: the form of `BQINIT`. -/
def Form.isMode : Form → Bool
  | .mode _ => true
  | .plain _ | .sample _ | .index _ | .indexValue _ => false

/-- The row of spec/opcode_table.json that a form has under `op` and `unit`. -/
def Form.row (f : Form) (op : BitVec 8) (unit : BitVec 4) : OpcodeRow :=
  { mask := assemble (BitVec.allOnes 8) (BitVec.allOnes 4) f.auxMask f.dataMask, value := assemble op unit 0 0 }

/-- The encoder and the opcode table agree with the opcode map on the form of `op` and `unit`. -/
structure Form.Agrees (f : Form) (op : BitVec 8) (unit : BitVec 4) : Prop where
  encodes : f.EncodesAt op unit
  row_mem : f.row op unit ∈ opcodeRows
  isMode_iff : f.isMode = true ↔ op = 0x20

/-- Row by row of R105: the opcode map's branches are those of the encoder and of the table. -/
theorem formOf_agrees_ofNat {op unit : Nat} {f : Form} (h : formOf op unit = .ok f) :
    f.Agrees (BitVec.ofNat 8 op) (BitVec.ofNat 4 unit) := by
  unfold formOf at h
  split at h
  case h_23 => cases h
  all_goals split at h <;> cases h
  all_goals exact ⟨by simp [Form.EncodesAt, encode, Instr.WellFormed, Instr.wellFormed], by decide, by decide⟩

theorem formOf_agrees {op : BitVec 8} {unit : BitVec 4} {f : Form} (h : formOf op.toNat unit.toNat = .ok f) :
    f.Agrees op unit := by simpa using formOf_agrees_ofNat h

/-- Every row of the opcode table is the row of a form of the opcode map. -/
theorem form_of_mem_opcodeRows {r : OpcodeRow} (h : r ∈ opcodeRows) :
    ∃ op unit f, formOf op.toNat unit.toNat = .ok f ∧ r = f.row op unit := by
  have hall : ∀ r ∈ opcodeRows,
      (formOf (opField r.value).toNat (unitField r.value).toNat).map (·.row (opField r.value) (unitField r.value)) =
        .ok r := by decide
  have hr := hall r h
  cases hf : formOf (opField r.value).toNat (unitField r.value).toNat with
  | error e => rw [hf] at hr; cases hr
  | ok f =>
    rw [hf] at hr
    exact ⟨_, _, f, hf, (Except.ok.inj hr).symm⟩

/-! ### Legal words -/

/-- What a form reads, it encodes back. -/
theorem Form.EncodesAt.encode_of_read {op : BitVec 8} {unit : BitVec 4} {f : Form} (hf : f.EncodesAt op unit)
    {aux : BitVec 20} {data : Sample} {i : Instr} (h : f.read aux data = .ok i) : encode i = assemble op unit aux data ∧ i.WellFormed := by
  cases f with
  | plain j => obtain ⟨rfl, rfl, rfl⟩ := read_plain_eq_ok.1 h; exact hf
  | sample g => obtain ⟨rfl, rfl⟩ := read_sample_eq_ok.1 h; exact hf data
  | index g =>
    obtain ⟨rfl, rfl⟩ := read_index_eq_ok.1 h
    obtain ⟨henc, hwf⟩ := hf aux.toNat
    exact ⟨by simpa using henc, hwf aux.isLt⟩
  | indexValue g =>
    obtain rfl := read_indexValue_eq_ok.1 h
    obtain ⟨henc, hwf⟩ := hf aux.toNat data
    exact ⟨by simpa using henc, hwf aux.isLt⟩
  | mode g =>
    obtain ⟨m, hm, rfl⟩ := read_mode_eq_ok.1 h
    simpa [hm] using hf m data

/-- Settles O2: the form that decodes the word encodes the operation under the word's own fields. -/
theorem legalWordIsTheEncodingOfItsOperation : Obligations.LegalWordIsTheEncodingOfItsOperation := by
  intro w i hdec
  obtain ⟨f, hf, hread⟩ := decode_eq_ok_iff.1 hdec
  obtain ⟨henc, hwf⟩ := (formOf_agrees hf).encodes.encode_of_read hread
  exact ⟨henc.trans (assemble_fields w), hwf⟩

/-- A word falls under a form's row when it has the row's `op` and `unit` and zeros where the form asks for them (R105). -/
theorem covers_row_iff {f : Form} {op : BitVec 8} {unit : BitVec 4} {w : Command} : (f.row op unit).covers w = true ↔
    opField w = op ∧ unitField w = unit ∧ auxField w &&& f.auxMask = 0 ∧ dataField w &&& f.dataMask = 0 := by
  simp [OpcodeRow.covers, Form.row, eq_iff_fields, -BitVec.reduceAllOnes]

/-- The modes have the codes below 5 (R110). -/
theorem exists_code_eq_iff {c : Nat} : (∃ m : Mode, m.code = c) ↔ c < 5 := by
  constructor
  · rintro ⟨m, rfl⟩; cases m <;> decide
  · intro h
    interval_cases c
    exacts [⟨.lowPass, rfl⟩, ⟨.highPass, rfl⟩, ⟨.lowShelf, rfl⟩, ⟨.highShelf, rfl⟩, ⟨.peak, rfl⟩]

/-- A form reads an operation when its must-be-zero bits are zero and a mode code is none of the reserved (R110, R111). -/
theorem exists_read_eq_ok_iff {f : Form} {aux : BitVec 20} {data : Sample} : (∃ i, f.read aux data = .ok i) ↔
    aux &&& f.auxMask = 0 ∧ data &&& f.dataMask = 0 ∧ (f.isMode = true → aux.toNat % 8 < 5) := by
  cases f with
  | plain j | sample g | index g | indexValue g => simp [Form.auxMask, Form.dataMask, Form.isMode, -BitVec.reduceAllOnes]
  | mode g =>
    have hread : (∃ i, (Form.mode g).read aux data = .ok i) ↔ aux.toNat < 5 := by
      simp [read_mode_eq_ok, ← exists_code_eq_iff]
    have hdata : data &&& (Form.mode g).dataMask = 0 := BitVec.and_zero
    rw [hread, show (Form.mode g).auxMask = 0xFFFF8 from rfl, and_modeMask_eq_zero_iff]
    simp only [hdata, Form.isMode, true_and, forall_const]
    omega

/-- A legal word has a form, and a row of the opcode table with the form's masks (R105, R111). -/
theorem exists_decode_eq_ok_iff {w : Command} : (∃ i, decode w = .ok i) ↔
    ∃ f, formOf (opField w).toNat (unitField w).toNat = .ok f ∧
      (f.row (opField w) (unitField w)).covers w = true ∧ (f.isMode = true → (auxField w).toNat % 8 < 5) := by
  simp only [decode_eq_ok_iff, covers_row_iff, true_and]
  rw [exists_comm]
  simp only [exists_and_left, exists_read_eq_ok_iff, and_assoc]

/-- A word with a form is a reserved mode code when the form is that of `BQINIT` and the code is above 4 (R110). -/
theorem reservedMode_eq_false_iff {w : Command} {f : Form} (hf : formOf (opField w).toNat (unitField w).toNat = .ok f) :
    reservedMode w = false ↔ (f.isMode = true → (auxField w).toNat % 8 < 5) := by
  rw [(formOf_agrees hf).isMode_iff]
  simp [reservedMode]

/-- A word falls under a row of the opcode table when it has a form and falls under the form's row. -/
theorem covered_iff {w : Command} : opcodeRows.any (·.covers w) = true ↔
    ∃ f, formOf (opField w).toNat (unitField w).toNat = .ok f ∧ (f.row (opField w) (unitField w)).covers w = true := by
  rw [List.any_eq_true]
  constructor
  · rintro ⟨r, hr, hcov⟩
    obtain ⟨op, unit, f, hf, rfl⟩ := form_of_mem_opcodeRows hr
    obtain ⟨rfl, rfl, -⟩ := covers_row_iff.1 hcov
    exact ⟨f, hf, hcov⟩
  · rintro ⟨f, hf, hcov⟩
    exact ⟨_, (formOf_agrees hf).row_mem, hcov⟩

/-- Settles O3: the rows of the table are the rows of the forms. -/
theorem legalExactlyUnderATableRow : Obligations.LegalExactlyUnderATableRow := by
  intro w
  rw [exists_decode_eq_ok_iff, covered_iff]
  constructor
  · rintro ⟨f, hf, hcov, hmode⟩
    exact ⟨⟨f, hf, hcov⟩, (reservedMode_eq_false_iff hf).2 hmode⟩
  · rintro ⟨⟨f, hf, hcov⟩, hres⟩
    exact ⟨f, hf, hcov, (reservedMode_eq_false_iff hf).1 hres⟩

end Sys2Proof
end

section
/-! The port check in front of every operation (R113, R114), and the answer to an illegal word (R111). -/

namespace Sys2Proof.Machine

/-! ### Refusals of the port check -/

/-- The port check looks at the right of the issuing port alone. -/
theorem gate_congr {acc acc' : Port → Access} {s : State} {run : StepOutcome} (h : acc s.curPort = acc' s.curPort) :
    gate acc s run = gate acc' s run := by simp only [gate, h]

/-- Every operation is a port check by the table of R113, followed by its work. -/
theorem exec_eq_gate (i : Instr) (s : State) : ∃ run, exec i s = gate (portTable · i) s run := by
  cases i with
  | pushMic v | pushRef v | pushOut v => exact ⟨_, gate_congr (acc := producerOf _) (by cases s.curPort <;> rfl)⟩
  | popMic | popRef | popOut => exact ⟨_, gate_congr (acc := consumerOf _) (by cases s.curPort <;> rfl)⟩
  | lenMic | lenRef | lenOut | capMic | capRef | capOut | isemptyMic | isemptyRef | isemptyOut | isfullMic | isfullRef
  | isfullOut => exact ⟨_, gate_congr (acc := eitherHalf _) (by cases s.curPort <;> rfl)⟩
  | start | stop | csrr n => exact ⟨_, gate_congr (acc := controller) (by cases s.curPort <;> rfl)⟩
  | unpark => exact ⟨_, gate_congr (acc := onlyOn .mic) (by cases s.curPort <;> rfl)⟩
  | _ => exact ⟨_, gate_congr (acc := engineOnly) (by cases s.curPort <;> rfl)⟩

/-- Settles O8: `gate_never` under the table. -/
theorem commandOnAForeignPortAnswersNotOwner : Obligations.CommandOnAForeignPortAnswersNotOwner := by
  intro i s hnever
  obtain ⟨run, hexec⟩ := exec_eq_gate i s
  exact hexec.trans (gate_never hnever)

/-- Settles O9: `gate_busy` and `gate_faulted` under the table. -/
theorem engineCommandNotHeldAnswersBusyOrFaulted : Obligations.EngineCommandNotHeldAnswersBusyOrFaulted := by
  intro i s hheld
  obtain ⟨run, hexec⟩ := exec_eq_gate i s
  exact ⟨fun hs => hexec.trans (gate_busy hheld hs), fun hs => hexec.trans (gate_faulted hheld hs)⟩

/-! ### Illegal words -/

/-- An agent that issues an illegal word is answered on its port (R111). -/
theorem issueNext_of_illegal {s : State} {p : Port} {w : Command} {ws : List Command} {e : Illegal} (hd : decode w = .error e)
    (hw : s.inbox.at p = w :: ws) :
    issueNext p s = .done (.next ({ s with inbox := s.inbox.put p ws, curPort := p }.answer p .illegalOp 0 0)) := by
  simp only [issueNext, hw, hd, reply_eq_answer]

/-- Settles O6: the turn of a port's agent issues the port's next word, `issueNext_of_illegal`. -/
theorem illegalWordAnswersIllegalOp : Obligations.IllegalWordAnswersIllegalOp := by
  intro s p w ws e hd hw hready
  have hfetch : fetch (s.onTurn (.agent p.agent)) =
      .done (.next ({ s with inbox := s.inbox.put p ws, curPort := p }.answer p .illegalOp 0 0)) :=
    (takeTurn_port hready).trans (issueNext_of_illegal hd hw)
  simp only [step, hfetch]

end Sys2Proof.Machine
end

section
/-! The FIFO family: the ring of R139 against the sequence, and what `PUSH`, `POP` and the queries answer (R130 to R136). -/

namespace Sys2Proof.Machine

/-! ### The ring -/

theorem Ring.ok_iff {g : Ring} :
    g.ok = true ↔ 0 < g.cap ∧ g.store.length = g.cap ∧ g.rd ≤ g.wr ∧ g.wr - g.rd ≤ g.cap := by
  simp [Ring.ok, and_assoc]

/-- The word of the storage that the count `n` addresses. -/
def Ring.cell (g : Ring) (n : Nat) : Sample := g.store.getD (n % g.cap) silence

/-- The sequence holds the words that the counts from `rd` up to `wr` address. -/
theorem Ring.toFifo_eq (g : Ring) :
    g.toFifo = { cap := g.cap, buf := (List.range' g.rd (g.wr - g.rd)).map g.cell } := by
  simp [Ring.toFifo, Ring.cell, List.range'_eq_map_range]

/-- The ring after a push that has room. -/
def Ring.pushed (g : Ring) (v : Sample) : Ring :=
  { g with store := g.store.set (g.wr % g.cap) v, wr := g.wr + 1 }

theorem Ring.push_eq (g : Ring) (v : Sample) :
    g.push v = if g.wr - g.rd = g.cap then none else some (g.pushed v) := rfl

theorem Ring.pop_eq (g : Ring) :
    g.pop = if g.wr = g.rd then none else some (g.cell g.rd, { g with rd := g.rd + 1 }) := rfl

/-- Two counts less than a capacity apart address different words. -/
theorem mod_ne_of_lt_add {m n c : Nat} (hlt : m < n) (hnear : n < m + c) : m % c ≠ n % c := by
  intro heq
  have hdvd : c ∣ n - m := Nat.dvd_of_mod_eq_zero (Nat.sub_mod_eq_zero_of_mod_eq heq.symm)
  have hle : c ≤ n - m := Nat.le_of_dvd (by omega) hdvd
  omega

theorem Ring.cell_pushed_wr {g : Ring} (v : Sample) (hcap : 0 < g.cap) (hlen : g.store.length = g.cap) :
    (g.pushed v).cell g.wr = v := by
  have hin : g.wr % g.cap < g.store.length := (Nat.mod_lt _ hcap).trans_eq hlen.symm
  simp [Ring.cell, Ring.pushed, List.getD_eq_getElem?_getD, hin]

/-- A push with room overwrites none of the words that the sequence holds. -/
theorem Ring.cell_pushed_of_held {g : Ring} {n : Nat} (v : Sample) (hn : n < g.wr) (hroom : g.wr < n + g.cap) :
    (g.pushed v).cell n = g.cell n := by
  have hne : g.wr % g.cap ≠ n % g.cap := (mod_ne_of_lt_add hn hroom).symm
  simp [Ring.cell, Ring.pushed, List.getD_eq_getElem?_getD, List.getElem?_set_ne hne]

/-- A push with room appends the sample to the sequence: one more count, and the words of the others stay. -/
theorem Ring.toFifo_pushed {g : Ring} (v : Sample) (hok : g.ok = true) (hroom : g.wr - g.rd ≠ g.cap) :
    (g.pushed v).toFifo = { g.toFifo with buf := g.toFifo.buf ++ [v] } := by
  obtain ⟨hcap, hlen, hle, hfit⟩ := Ring.ok_iff.mp hok
  have hcounts : List.range' g.rd (g.wr + 1 - g.rd) = List.range' g.rd (g.wr - g.rd) ++ [g.wr] := by
    rw [Nat.sub_add_comm hle, List.range'_1_concat, Nat.add_sub_cancel' hle]
  have hheld : (List.range' g.rd (g.wr - g.rd)).map (g.pushed v).cell = (List.range' g.rd (g.wr - g.rd)).map g.cell := by
    refine List.map_congr_left fun n hn => ?_
    rw [List.mem_range'_1] at hn
    exact Ring.cell_pushed_of_held v (by omega) (by omega)
  calc (g.pushed v).toFifo
      = { cap := g.cap, buf := (List.range' g.rd (g.wr + 1 - g.rd)).map (g.pushed v).cell } := Ring.toFifo_eq _
    _ = { g.toFifo with buf := g.toFifo.buf ++ [v] } := by
      rw [hcounts, List.map_append, hheld, List.map_singleton, Ring.cell_pushed_wr v hcap hlen, Ring.toFifo_eq]

/-- The ring's push fails and succeeds with that of the sequence, and appends as it does (R131, R139). -/
theorem Ring.push_toFifo {g : Ring} (v : Sample) (hok : g.ok = true) :
    g.toFifo.push v = (g.push v).map Ring.toFifo := by
  have hlength : g.toFifo.buf.length = g.wr - g.rd := by simp [Ring.toFifo]
  have hiff : g.toFifo.buf.length = g.toFifo.cap ↔ g.wr - g.rd = g.cap := by rw [hlength]; rfl
  rw [Ring.push_eq]
  by_cases hfull : g.wr - g.rd = g.cap
  · rw [push_of_full v (hiff.mpr hfull), if_pos hfull, Option.map_none]
  · rw [if_neg hfull, Option.map_some, Ring.toFifo_pushed v hok hfull, Fifo.push, if_neg (hiff.not.mpr hfull)]

/-- The ring's pop fails and succeeds with that of the sequence, and takes the same sample off (R132, R139). -/
theorem Ring.pop_toFifo {g : Ring} (hok : g.ok = true) :
    g.toFifo.pop = g.pop.map (fun r => (r.1, r.2.toFifo)) := by
  obtain ⟨-, -, hle, -⟩ := Ring.ok_iff.mp hok
  rw [Ring.pop_eq]
  by_cases hempty : g.wr = g.rd
  · simp [Fifo.pop, Ring.toFifo, hempty]
  · have hcounts : List.range' g.rd (g.wr - g.rd) = g.rd :: List.range' (g.rd + 1) (g.wr - (g.rd + 1)) := by
      rw [show g.wr - g.rd = g.wr - (g.rd + 1) + 1 by omega, List.range'_succ]
    have hbuf : g.toFifo.buf = g.cell g.rd :: ({ g with rd := g.rd + 1 } : Ring).toFifo.buf := by
      simp only [Ring.toFifo_eq, hcounts, List.map_cons]
      rfl
    rw [pop_of_cons hbuf, if_neg hempty]
    rfl

theorem Ring.push_ok {g g' : Ring} {v : Sample} (hok : g.ok = true) (h : g.push v = some g') : g'.ok = true := by
  obtain ⟨hcap, hlen, hle, hfit⟩ := Ring.ok_iff.mp hok
  rw [Ring.push_eq, Option.ite_none_left_eq_some] at h
  obtain ⟨hroom, heq⟩ := h
  cases heq
  rw [Ring.ok_iff]
  simp only [Ring.pushed, List.length_set]
  omega

theorem Ring.pop_ok {g : Ring} {r : Sample × Ring} (hok : g.ok = true) (h : g.pop = some r) : r.2.ok = true := by
  obtain ⟨hcap, hlen, hle, hfit⟩ := Ring.ok_iff.mp hok
  rw [Ring.pop_eq, Option.ite_none_left_eq_some] at h
  obtain ⟨hsome, heq⟩ := h
  cases heq
  rw [Ring.ok_iff]
  dsimp only
  omega

/-- Settles O14: the simulation of push and of pop, and the ring's condition after each (R139). -/
theorem ringImplementsTheFifo : Obligations.RingImplementsTheFifo :=
  fun _ v hok => ⟨Ring.push_toFifo v hok, Ring.pop_toFifo hok, fun _ => Ring.push_ok hok, fun _ => Ring.pop_ok hok⟩

/-! ### The port check passed -/

section Passed

variable {s : State} {run : StepOutcome}

theorem gate_onlyOn {own : Port} (h : s.curPort = own) : gate (onlyOn own) s run = run :=
  gate_always (by simp [onlyOn, h])

theorem gate_engineOnly (d : s.DirectAccess) : gate engineOnly s run = run :=
  gate_held (by simp [engineOnly, d.port]) d.held

theorem gate_eitherHalf {q : FifoId} (h : s.MayQuery q) : gate (eitherHalf q) s run = run := by
  rcases h with host | d
  · exact gate_always (by simp [eitherHalf, host])
  · exact gate_held (by unfold eitherHalf; split <;> simp [d.port]) d.held

end Passed

/-! ### `PUSH` and `POP` -/

/-- `PUSH` on a full FIFO answers `Full`; on another it appends (R131). -/
theorem pushCommand_eq (q : FifoId) (v : Sample) (s : State) :
    pushCommand q v s = if (s.fifo q).buf.length = (s.fifo q).cap then s.reply .full 0 0
      else (s.setFifo q { s.fifo q with buf := (s.fifo q).buf ++ [v] }).reply .ok 0 0 := by
  unfold pushCommand Fifo.push
  split_ifs <;> rfl

theorem popCommand_of_cons {q : FifoId} {s : State} {v : Sample} {rest : List Sample} (h : (s.fifo q).buf = v :: rest) :
    popCommand q s = (s.setFifo q { s.fifo q with buf := rest }).reply .ok 0 v := by
  rw [popCommand, pop_of_cons h]

theorem popCommand_of_nil {q : FifoId} {s : State} (h : (s.fifo q).buf = []) : popCommand q s = s.reply .empty 0 0 := by
  rw [popCommand, Fifo.pop, h]

/-- Settles O10: the port check passes and `pushCommand_eq` says what follows. -/
theorem pushAppendsOrAnswersFull : Obligations.PushAppendsOrAnswersFull := fun v s =>
  ⟨fun h => (gate_onlyOn h).trans (congrArg _ (pushCommand_eq .mic v s)),
    fun h => (gate_onlyOn h).trans (congrArg _ (pushCommand_eq .ref v s)),
    fun d => (gate_engineOnly d).trans (congrArg _ (pushCommand_eq .out v s))⟩

/-- Settles O11: the port check passes, and the FIFO holds a sample (`popCommand_of_cons`) or none (`popCommand_of_nil`). -/
theorem popRemovesTheOldestOrAnswersEmpty : Obligations.PopRemovesTheOldestOrAnswersEmpty := fun _ _ _ =>
  ⟨fun d h => (gate_engineOnly d).trans (congrArg _ (popCommand_of_cons (q := .mic) h)),
    fun d h => (gate_engineOnly d).trans (congrArg _ (popCommand_of_nil (q := .mic) h)),
    fun d h => (gate_engineOnly d).trans (congrArg _ (popCommand_of_cons (q := .ref) h)),
    fun d h => (gate_engineOnly d).trans (congrArg _ (popCommand_of_nil (q := .ref) h)),
    fun p h => (gate_onlyOn p).trans (congrArg _ (popCommand_of_cons (q := .out) h)),
    fun p h => (gate_onlyOn p).trans (congrArg _ (popCommand_of_nil (q := .out) h))⟩

/-! ### The queries -/

theorem truthWord_isEmpty (q : Fifo) : truthWord q.isEmpty = if q.buf.length = 0 then 1 else 0 := by
  simp [truthWord, Fifo.isEmpty]

theorem truthWord_isFull (q : Fifo) : truthWord q.isFull = if q.buf.length = q.cap then 1 else 0 := by
  simp [truthWord, Fifo.isFull]

/-- A query that may be issued is answered OK with the word it asks for, and changes nothing else. -/
theorem gate_query {s : State} {q : FifoId} {x y : BitVec 32} (h : s.MayQuery q) (hxy : x = y) :
    gate (eitherHalf q) s (.next (s.reply .ok 0 x)) = .next (s.reply .ok 0 y) := by
  rw [gate_eitherHalf h, hxy]

/-- Settles O12: each query is `gate_query`, the flags by `truthWord_isEmpty` and `truthWord_isFull`. -/
theorem queriesAnswerLengthCapacityAndFlags : Obligations.QueriesAnswerLengthCapacityAndFlags := fun _ =>
  ⟨fun h => ⟨gate_query h rfl, gate_query h rfl, gate_query h (truthWord_isEmpty _), gate_query h (truthWord_isFull _)⟩,
    fun h => ⟨gate_query h rfl, gate_query h rfl, gate_query h (truthWord_isEmpty _), gate_query h (truthWord_isFull _)⟩,
    fun h => ⟨gate_query h rfl, gate_query h rfl, gate_query h (truthWord_isEmpty _), gate_query h (truthWord_isFull _)⟩⟩

end Sys2Proof.Machine
end

section
/-! The biquad family: what `BQTICK`, `CASC` and `BQINIT` answer (R151 to R158). -/

namespace Sys2Proof.Machine

section Commands

variable {s : State}

/-! ### `BQTICK` and `CASC` under direct access -/

theorem exec_bqtickLp (d : s.DirectAccess) (x : Sample) :
    exec (.bqtickLp x) s = .next ({ s with lp := (tick s.num s.lp x).2 }.reply .ok 0 (tick s.num s.lp x).1) :=
  gate_engineOnly d

theorem exec_bqtickHp (d : s.DirectAccess) (x : Sample) :
    exec (.bqtickHp x) s = .next ({ s with hp := (tick s.num s.hp x).2 }.reply .ok 0 (tick s.num s.hp x).1) :=
  gate_engineOnly d

theorem exec_casc (d : s.DirectAccess) (x : Sample) :
    exec (.casc x) s = .next ({ s with
      lp := (tick s.num s.lp x).2, hp := (tick s.num s.hp (tick s.num s.lp x).1).2 }.reply .ok 0
        (tick s.num s.hp (tick s.num s.lp x).1).1) :=
  gate_engineOnly d

/-! ### `BQINIT` -/

/-- The two tests of `BQINIT` on a cutoff, one by one (R151, R158). -/
theorem acceptsCutoff_iff {x : Sample} : s.acceptsCutoff x = true ↔
    s.num.isnan x = false ∧ isNaN x = false ∧ isInf x = false ∧ 0 < scaled x ∧ 2 * scaled x < s.cfg.fs * 2 ^ 149 := by
  simp [State.acceptsCutoff, legalCutoff, and_assoc]

/-- `BQINIT` in a mode that `coef` does not define (R154). -/
theorem bqinitCommand_of_coef_none {m : Mode} {x : Sample} (f : BiquadId) (h : coef s.cfg m x = none) :
    bqinitCommand f m x s = s.reply .badMode 0 0 := by
  rw [bqinitCommand, h]

/-- `BQINIT` in a mode that `coef` defines (R151, R158). -/
theorem bqinitCommand_of_coef_some {m : Mode} {x : Sample} {c : Coefs} (f : BiquadId) (h : coef s.cfg m x = some c) :
    bqinitCommand f m x s =
      if s.acceptsCutoff x then (s.setBiquad f (Biquad.fresh c)).reply .ok 0 0 else s.reply .badParam 0 0 := by
  rw [bqinitCommand, h]

theorem exec_bqinitLp (d : s.DirectAccess) (m : Mode) (x : Sample) :
    exec (.bqinitLp m x) s = .next (bqinitCommand .lp m x s) :=
  gate_engineOnly d

theorem exec_bqinitHp (d : s.DirectAccess) (m : Mode) (x : Sample) :
    exec (.bqinitHp m x) s = .next (bqinitCommand .hp m x s) :=
  gate_engineOnly d

end Commands

/-- `coef` is undefined for the shelf and peak modes alone (R152 to R154). -/
theorem coef_eq_none_iff {c : Params} {m : Mode} {x : Sample} :
    coef c m x = none ↔ m = .lowShelf ∨ m = .highShelf ∨ m = .peak := by
  cases m <;> simp [coef]

/-! ### The statements -/

/-- Settles O18: between the two ticks only `LP` changes, so the second runs under the same `NUM` and on the old `HP`, as the
cascade does. -/
theorem cascIsTickLpThenTickHp : Obligations.CascIsTickLpThenTickHp := by
  intro x s d
  have d1 : { s with lp := (tick s.num s.lp x).2 }.DirectAccess := ⟨d.port, d.held⟩
  refine ⟨_, _, _, { s with lp := _, hp := _ }, exec_bqtickLp d x, rfl, exec_bqtickHp d1 _, rfl, exec_casc d x⟩

/-- Settles O15: by whether `coef` is defined, and then by the tests on the cutoff (`acceptsCutoff_iff`). -/
theorem bqinitConstructsTheBiquad : Obligations.BqinitConstructsTheBiquad := by
  intro m x s d legal
  refine ⟨fun hm => ?_, fun c hc => ?_, fun hm => ?_⟩
  · have hc : coef s.cfg m x = none := coef_eq_none_iff.2 hm
    rw [exec_bqinitLp d, exec_bqinitHp d, bqinitCommand_of_coef_none .lp hc, bqinitCommand_of_coef_none .hp hc]
    exact ⟨rfl, rfl⟩
  · rw [exec_bqinitLp d, exec_bqinitHp d, bqinitCommand_of_coef_some .lp hc, bqinitCommand_of_coef_some .hp hc]
    exact ⟨congrArg _ (if_congr acceptsCutoff_iff rfl rfl), congrArg _ (if_congr acceptsCutoff_iff rfl rfl)⟩
  · rcases hm with rfl | rfl <;> exact ⟨_, rfl⟩

/-- Settles O16: the default cutoffs are `F_LP` and `F_HP`, where `coef` is `C_LP` and `C_HP` (R155). -/
theorem referenceCoefficients : Obligations.ReferenceCoefficients :=
  ⟨congrArg some (if_pos rfl), congrArg some (if_pos rfl)⟩

/-- Settles O17: the port check passes, and `tick` is the recurrence and the shift of the history. -/
theorem bqtickComputesTheRecurrence : Obligations.BqtickComputesTheRecurrence := fun x _ d =>
  ⟨exec_bqtickLp d x, exec_bqtickHp d x⟩

end Sys2Proof.Machine
end

section
/-! The adaptive family: the delay line and its circular organisation (R171 to R174, R181), the outcomes of `ADAPT`
(R175 to R179, R183), and silence under the default `NUM` (R182). -/

namespace Sys2Proof.Machine

/-! ### The circular delay line -/

theorem CircularLine.ok_iff {g : CircularLine} : g.ok = true ↔ g.wp < g.store.length := by simp [CircularLine.ok]

/-- Reading the array from the write pointer around is rotating it. -/
theorem CircularLine.toLine_eq_rotate {g : CircularLine} (hok : g.ok = true) : g.toLine = g.store.rotate g.wp := by
  have hpos : 0 < g.store.length := Nat.zero_lt_of_lt (CircularLine.ok_iff.1 hok)
  refine List.ext_getElem (by simp [CircularLine.toLine]) fun i _ _ => ?_
  have hin : (i + g.wp) % g.store.length < g.store.length := Nat.mod_lt _ hpos
  simp [CircularLine.toLine, List.getElem_rotate, Nat.add_comm g.wp i, hin]

theorem CircularLine.push_ok {g : CircularLine} (v : Sample) (hok : g.ok = true) : (g.push v).ok = true := by
  have hwp := CircularLine.ok_iff.1 hok
  simpa [CircularLine.ok_iff, CircularLine.push] using Nat.mod_lt _ (Nat.zero_lt_of_lt hwp)

/-- The word overwritten is the oldest, and one step on from it the newest stands last. -/
theorem CircularLine.toLine_push {g : CircularLine} (v : Sample) (hok : g.ok = true) :
    (g.push v).toLine = shiftIn g.toLine v := by
  have hwp := CircularLine.ok_iff.1 hok
  have hnew : (g.store.set g.wp v).take (g.wp + 1) = g.store.take g.wp ++ [v] := by
    rw [List.take_set, List.take_succ_eq_append_getElem hwp, List.set_append_right _ _ (by simp)]
    simp [hwp.le]
  calc (g.push v).toLine
      = (g.store.set g.wp v).rotate ((g.wp + 1) % g.store.length) := CircularLine.toLine_eq_rotate (CircularLine.push_ok v hok)
    _ = (g.store.set g.wp v).rotate (g.wp + 1) := by rw [← List.length_set (i := g.wp) (a := v), List.rotate_mod]
    _ = g.store.drop (g.wp + 1) ++ (g.store.take g.wp ++ [v]) := by
      rw [List.rotate_eq_drop_append_take (by simpa using hwp), List.drop_set_of_lt (Nat.lt_succ_self _), hnew]
    _ = shiftIn g.toLine v := by
      rw [CircularLine.toLine_eq_rotate hok, List.rotate_eq_drop_append_take hwp.le, List.drop_eq_getElem_cons hwp,
        shiftIn, List.cons_append, List.tail_cons, List.append_assoc]

/-- Settles O22: the line is the array rotated by the write pointer, and a push turns it one step further. -/
theorem circularLineImplementsTheDelayLine : Obligations.CircularLineImplementsTheDelayLine := by
  refine ⟨fun n hn => ?_, fun g v hok => ⟨CircularLine.toLine_push v hok, CircularLine.push_ok v hok, List.length_set⟩⟩
  have hok : (CircularLine.init n).ok = true := CircularLine.ok_iff.2 (hn.trans_eq (zeros_length n).symm)
  exact ⟨(CircularLine.toLine_eq_rotate hok).trans (List.rotate_zero _), hok, zeros_length n⟩

/-! ### `DLINIT`, `DLPUSH` and the storage reads -/

/-- Settles O20: the port check passes, and the line is `zeros` or shifted. -/
theorem delayLineInitAndPush : Obligations.DelayLineInitAndPush := fun _ _ d => ⟨gate_engineOnly d, gate_engineOnly d⟩

section Reads

variable {n i : Nat} {store : List Sample}

theorem readStorage_of_le (h : n ≤ i) (s : State) : readStorage n store i s = .next (s.reply .badIndex 0 0) := if_pos h

theorem readStorage_of_lt {v : Sample} (h : i < n) (hv : store[i]? = some v) (s : State) :
    readStorage n store i s = .next (s.reply .ok 0 v) := by
  rw [readStorage, if_neg (by omega), hv]

end Reads

/-- Settles O21: the port check passes, and the index is beyond the storage or inside it. -/
theorem storageReadsAnswerTheElementOrBadIndex : Obligations.StorageReadsAnswerTheElementOrBadIndex := fun _ s d =>
  ⟨fun h => ⟨(gate_engineOnly d).trans (readStorage_of_le h s), (gate_engineOnly d).trans (readStorage_of_le h s)⟩,
    fun h _ hv => (gate_engineOnly d).trans (readStorage_of_lt h hv s),
    fun h _ hv => (gate_engineOnly d).trans (readStorage_of_lt h hv s)⟩

/-! ### The outcomes of `ADAPT` -/

/-- The quantities that `ADAPT target` computes in the state `s` before any update (R175, R176). -/
def State.termsOn (s : State) (target : Sample) : AdaptTerms := adaptTerms s.num s.mu s.epsr s.w s.dl target

/-- The weights with every delta added (R175). -/
def State.summed (s : State) (target : Sample) : List Sample := List.zipWith s.num.fadd s.w (s.termsOn target).dw

theorem undetermined_eq_true_iff {u : Numerics} {a : AdaptTerms} :
    a.undetermined u = true ↔ ∃ x ∈ a.t, u.isnan x = true := List.any_eq_true

theorem undetermined_eq_false_iff {u : Numerics} {a : AdaptTerms} :
    a.undetermined u = false ↔ ∀ x ∈ a.t, u.isnan x = false := by simp [AdaptTerms.undetermined]

section Adapt

variable {s : State} {target : Sample}

/-- No compared product is a NaN and the gate is closed: the weights stay (R177). -/
theorem adaptOn_of_closed (hnum : ∀ x ∈ (s.termsOn target).t, s.num.isnan x = false)
    (hgate : s.num.flt (s.num.max (s.termsOn target).t) s.thr = false) :
    s.adaptOn target =
      { output := (s.termsOn target).output, novelty := s.num.max (s.termsOn target).t, w := s.w, applied := false
        nan := false, draws := s.draws } := by
  unfold State.termsOn at hnum hgate
  rw [State.adaptOn, adapt_of_no_nan _ _ _ _ _ _ _ _ (undetermined_eq_false_iff.2 hnum), hgate]
  rfl

/-- No compared product is a NaN and the gate is open: every delta is added, and the sums are checked (R177, R178). -/
theorem adaptOn_of_open (hnum : ∀ x ∈ (s.termsOn target).t, s.num.isnan x = false)
    (hgate : s.num.flt (s.num.max (s.termsOn target).t) s.thr = true) :
    s.adaptOn target =
      { output := (s.termsOn target).output, novelty := s.num.max (s.termsOn target).t, w := s.summed target
        applied := true, nan := (s.summed target).any s.num.isnan, draws := s.draws } := by
  unfold State.termsOn at hnum hgate
  rw [State.adaptOn, adapt_of_no_nan _ _ _ _ _ _ _ _ (undetermined_eq_false_iff.2 hnum), hgate]
  rfl

/-- Some compared product is a NaN: the gate's outcome and the novelty are free values (R179). -/
theorem adaptOn_of_nan (hnan : ∃ x ∈ (s.termsOn target).t, s.num.isnan x = true) :
    s.adaptOn target =
      { output := (s.termsOn target).output, novelty := Config.drawNovelty s.draws
        w := if Config.drawApply s.draws then s.summed target else s.w, applied := Config.drawApply s.draws
        nan := Config.drawApply s.draws && (s.summed target).any s.num.isnan, draws := s.draws + 1 } := by
  rw [State.adaptOn, adapt_of_nan _ _ _ _ _ _ _ _ (undetermined_eq_true_iff.2 hnan)]
  cases Config.drawApply s.draws <;> rfl

variable (d : s.DirectAccess) (fits : s.dl.length = s.w.length)
include d fits

/-- `ADAPT` under direct access, the window fitting: the fault, or a normal return (R176, R178). -/
theorem exec_adapt : exec (.adapt target) s = .next (
    if (s.adaptOn target).nan then (s.afterAdapt (s.adaptOn target)).raiseNaNWeight.reply .nanWeight 0 0
    else (s.afterAdapt (s.adaptOn target)).reply .ok (s.adaptOn target).novelty (s.adaptOn target).output) :=
  (gate_engineOnly d).trans (if_pos (decide_eq_true fits))

theorem exec_adapt_of_closed (hnum : ∀ x ∈ (s.termsOn target).t, s.num.isnan x = false)
    (hgate : s.num.flt (s.num.max (s.termsOn target).t) s.thr = false) :
    exec (.adapt target) s = .next (s.reply .ok (s.num.max (s.termsOn target).t) (s.termsOn target).output) := by
  rw [exec_adapt d fits, adaptOn_of_closed hnum hgate]
  rfl

theorem exec_adapt_of_open (hnum : ∀ x ∈ (s.termsOn target).t, s.num.isnan x = false)
    (hgate : s.num.flt (s.num.max (s.termsOn target).t) s.thr = true)
    (hsum : ∀ x ∈ s.summed target, s.num.isnan x = false) :
    exec (.adapt target) s = .next
      ({ s with w := s.summed target }.reply .ok (s.num.max (s.termsOn target).t) (s.termsOn target).output) := by
  have hcheck : (s.summed target).any s.num.isnan = false := by simpa using hsum
  rw [exec_adapt d fits, adaptOn_of_open hnum hgate, hcheck]
  rfl

/-- Skipped, applied, or applied with the fault: by the free value of the gate, and then by the check of R178. -/
theorem exec_adapt_of_nan (hnan : ∃ x ∈ (s.termsOn target).t, s.num.isnan x = true) :
    exec (.adapt target) s = .next
      (if Config.drawApply s.draws then
        if (s.summed target).any s.num.isnan then
          { s with w := s.summed target, draws := s.draws + 1 }.raiseNaNWeight.reply .nanWeight 0 0
        else
          { s with w := s.summed target, draws := s.draws + 1 }.reply .ok (Config.drawNovelty s.draws)
            (s.termsOn target).output
      else { s with draws := s.draws + 1 }.reply .ok (Config.drawNovelty s.draws) (s.termsOn target).output) := by
  rw [exec_adapt d fits, adaptOn_of_nan hnan]
  cases Config.drawApply s.draws <;> rfl

end Adapt

/-- Settles O23: the gate closed is `exec_adapt_of_closed`, the gate open `exec_adapt_of_open`. -/
theorem adaptUpdatesTheWeightsThroughTheGate : Obligations.AdaptUpdatesTheWeightsThroughTheGate := by
  intro target s d fits output error energy se dw t novelty updated hnum
  exact ⟨exec_adapt_of_closed d fits hnum, exec_adapt_of_open d fits hnum⟩

/-- Settles O24: by the free value of the gate and the check on the sums (`exec_adapt_of_nan`). -/
theorem adaptWithANaNProductSkipsAppliesOrFaults : Obligations.AdaptWithANaNProductSkipsAppliesOrFaults := by
  intro target s d fits output error energy se dw updated hnan
  obtain ⟨x, hx, hnan⟩ := hnan
  have hexec := exec_adapt_of_nan d fits (target := target) ⟨_, List.mem_map_of_mem hx, hnan⟩
  by_cases happly : Config.drawApply s.draws = true
  · rw [if_pos happly] at hexec
    right
    by_cases hcheck : (s.summed target).any s.num.isnan = true
    · rw [if_pos hcheck] at hexec
      exact .inr ⟨List.any_eq_true.1 hcheck, hexec⟩
    · have hsum : ∀ x ∈ s.summed target, s.num.isnan x = false := by simpa using hcheck
      rw [if_neg hcheck] at hexec
      exact .inl ⟨hsum, _, hexec⟩
  · rw [if_neg happly] at hexec
    exact .inl ⟨_, hexec⟩

/-- Settles O25: `THR` is read by the gate alone, closed at the lower threshold and open at the higher. -/
theorem thresholdDecidesTheWeightsAlone : Obligations.ThresholdDecidesTheWeightsAlone := by
  intro target low high s d fits a hnum hlow hhigh hsum
  exact ⟨_, _, exec_adapt_of_closed (s := { s with thr := low }) ⟨d.port, d.held⟩ fits hnum hlow,
    exec_adapt_of_open (s := { s with thr := high }) ⟨d.port, d.held⟩ fits hnum hhigh hsum, rfl, rfl, rfl⟩

/-! ### Zeros in the default `NUM` -/

theorem lowBits_lt_infLow_of_isFinite {a : Sample} (h : Config.IsFinite a) : lowBits a < infLow := by
  rw [isFinite_iff, expField_eq_lowBits] at h
  have h31 : lowBits a < 2 ^ 31 := Nat.mod_lt _ (by decide)
  simp only [infLow]
  omega

/-- Every finite magnitude lies below the overflow threshold of R13. -/
theorem magnitude_lt_of_isFinite {a : Sample} (h : Config.IsFinite a) : magnitude a < (2 ^ 25 - 1) * 2 ^ 252 := by
  have hle : lowBits a ≤ infLow - 1 := Nat.le_sub_one_of_lt (lowBits_lt_infLow_of_isFinite h)
  calc magnitude a = lowValue (lowBits a) := magnitude_eq a
    _ ≤ lowValue (infLow - 1) := lowValue_strictMono.monotone hle
    _ < (2 ^ 25 - 1) * 2 ^ 252 := by norm_num [lowValue]

theorem isFinite_of_scaled_eq_zero {a : Sample} (h : scaled a = 0) : Config.IsFinite a := by
  rw [scaled_eq_zero_iff, magnitude_eq_zero_iff] at h
  rw [isFinite_iff, expField_eq_lowBits, h]
  decide

/-- Two samples of one value are the same unless they are zeros of different signs. -/
theorem eq_of_scaled_eq {a b : Sample} (h : scaled a = scaled b) (hzero : scaled b = 0 → signBit a = signBit b) : a = b := by
  refine eq_of_signBit_of_lowBits ?_ (natAbs_scaled_eq_iff.1 (congrArg _ h))
  by_cases hb : scaled b = 0
  · exact hzero hb
  · rw [signBit_of_scaled_ne_zero hb, signBit_of_scaled_ne_zero (h ▸ hb), h]

/-- The value of a finite sample is rounded to itself. -/
theorem RoundsTo.scaled_eq {a r : Sample} (h : RoundsTo (scaled a) 1 r) (ha : Config.IsFinite a) : scaled r = scaled a := by
  have hfin : isInf r = false := by
    rw [Bool.eq_false_iff, ne_eq, h.overflow, natAbs_scaled, not_le, Nat.mul_one]
    exact magnitude_lt_of_isFinite ha
  have hnear := h.nearest hfin a ha
  simp only [Nat.cast_one, one_mul] at hnear
  omega

theorem scaled_fadd_zero {a z : Sample} (ha : Config.IsFinite a) (hz : scaled z = 0) : scaled (fadd a z) = scaled a := by
  have hround := roundsTo_fadd ha (isFinite_of_scaled_eq_zero hz)
  rw [hz, Int.add_zero] at hround
  exact hround.scaled_eq ha

/-- Adding a zero to a finite sample of positive sign gives that sample. -/
theorem fadd_zero_of_signBit {a z : Sample} (ha : Config.IsFinite a) (hs : signBit a = false) (hz : scaled z = 0) :
    fadd a z = a := by
  refine eq_of_scaled_eq (scaled_fadd_zero ha hz) fun h0 => ?_
  rw [signBit_fadd_of_zero ha (isFinite_of_scaled_eq_zero hz) (by omega), hs, Bool.false_and]

theorem fsub_silence {a : Sample} (ha : Config.IsFinite a) : fsub a silence = a := by
  have hz : scaled silence = 0 := by decide
  have hfin := isFinite_of_scaled_eq_zero hz
  have hround := roundsTo_fsub ha hfin
  rw [hz, Int.sub_zero] at hround
  refine eq_of_scaled_eq (hround.scaled_eq ha) fun h0 => ?_
  rw [signBit_fsub_of_zero ha hfin (by omega), show signBit silence = false by decide, Bool.not_false, Bool.and_true]

/-- A finite product with a zero factor is a zero. -/
theorem scaled_fmul_eq_zero {a b : Sample} (ha : Config.IsFinite a) (hb : Config.IsFinite b)
    (h : scaled a = 0 ∨ scaled b = 0) : scaled (fmul a b) = 0 := by
  have hmag : magnitude a * magnitude b = 0 := by
    simpa [← scaled_eq_zero_iff] using h
  rw [fmul_of_number (isNaN_fmul_of_finite ha hb), if_neg (by simp [isFinite_not_isInf ha, isFinite_not_isInf hb]), hmag,
    roundLow_zero, scaled_withSign_zero]

theorem fabs_eq_silence {a : Sample} (h : scaled a = 0) : fabs a = silence := by
  rw [scaled_eq_zero_iff, magnitude_eq_zero_iff] at h
  exact BitVec.eq_of_toNat_eq ((toNat_clearSign a).trans h)

/-- The sum of zeros of any sign is `+0.0`: so the accumulator starts, and so it stays. -/
theorem sumSeq_of_zeros {l : List Sample} (h : ∀ x ∈ l, scaled x = 0) : sumSeq fadd l = silence := by
  induction l with
  | nil => rfl
  | cons x l ih =>
    rw [List.forall_mem_cons] at h
    obtain ⟨hx, hl⟩ := h
    rw [sumSeq, List.foldl_cons, fadd_zero_of_signBit (by decide) (by decide) hx]
    exact ih hl

theorem maxSeq_replicate {gt : Sample → Sample → Bool} {a : Sample} (h : gt a a = false) (n : Nat) :
    maxSeq gt (List.replicate (n + 1) a) = a := by
  induction n with
  | zero => rfl
  | succ n ih =>
    rw [List.replicate_succ, maxSeq, List.replicate_succ, List.foldl_cons, h]
    exact ih

theorem maxSeq_zeros (n : Nat) : maxSeq fgt (zeros n) = silence := by
  cases n with
  | zero => rfl
  | succ n => exact maxSeq_replicate (by decide) n

theorem zipWith_replicate_length {α β γ : Type} (f : α → β → γ) (l : List α) (b : β) :
    List.zipWith f l (List.replicate l.length b) = l.map fun a => f a b := by
  rw [← List.map_const', List.zipWith_map_right, List.zipWith_self]

/-! ### Silence -/

/-- What `ADAPT` adds to a weight whose tap of the window is silent: the step-error product times `+0.0` (R175, R182). -/
def silentDelta (mu epsr target : Sample) : Sample := fmul (fmul (fdiv mu epsr) target) silence

theorem scaled_silentDelta {mu epsr target : Sample} (hse : Config.IsFinite (fmul (fdiv mu epsr) target)) :
    scaled (silentDelta mu epsr target) = 0 := scaled_fmul_eq_zero hse (by decide) (.inr (by decide))

section Silence

variable {mu epsr target : Sample} {w : List Sample}
  (hw : ∀ x ∈ w, Config.IsFinite x) (htarget : Config.IsFinite target) (hepsr : Config.IsFinite epsr)
  (hpos : 0 < scaled epsr) (hse : Config.IsFinite (fmul (fdiv mu epsr) target))
include hw htarget hepsr hpos hse

/-- What `ADAPT` computes from silence: the output `+0.0`, the target as the error, and every compared product `+0.0`. -/
theorem adaptTerms_of_silence : adaptTerms binary32 mu epsr w (List.replicate w.length silence) target =
    { output := silence, error := target, energy := silence, step := fdiv mu epsr, se := fmul (fdiv mu epsr) target
      dw := List.replicate w.length (silentDelta mu epsr target), t := zeros w.length } := by
  have hsil : scaled silence = 0 := by decide
  have hfin : Config.IsFinite silence := by decide
  have houtput : sumSeq fadd (List.zipWith fmul w (List.replicate w.length silence)) = silence := by
    rw [zipWith_replicate_length]
    exact sumSeq_of_zeros (List.forall_mem_map.2 fun x hx => scaled_fmul_eq_zero (hw x hx) hfin (.inr hsil))
  have henergy : sumSeq fadd (List.replicate w.length (fmul silence silence)) = silence := by
    refine sumSeq_of_zeros fun x hx => ?_
    rw [List.eq_of_mem_replicate hx]
    exact scaled_fmul_eq_zero hfin hfin (.inl hsil)
  have hstep : fadd epsr silence = epsr := fadd_zero_of_signBit hepsr ((scaled_pos_iff epsr).1 hpos).1 hsil
  have hdelta := scaled_silentDelta hse
  have hcompared : fabs (fmul (silentDelta mu epsr target) target) = silence :=
    fabs_eq_silence (scaled_fmul_eq_zero (isFinite_of_scaled_eq_zero hdelta) htarget (.inl hdelta))
  unfold silentDelta at hcompared ⊢
  simp only [adaptTerms, binary32_sum, binary32_fmul, binary32_fsub, binary32_fdiv, binary32_fadd, binary32_fabs,
    List.map_replicate, houtput, henergy, fsub_silence htarget, hstep, hcompared, zeros]

end Silence

/-- Settles O26: the deltas are zeros, so the gate open or closed no weight changes its value. -/
theorem silentWindowKeepsTheWeightsNumerically : Obligations.SilentWindowKeepsTheWeightsNumerically := by
  intro target s d hcfg hdl _ hw htarget _ hepsr hpos hse
  have hbin : s.num = binary32 := num_of_default hcfg
  have fits : s.dl.length = s.w.length := by simp [hdl]
  have hdelta := scaled_silentDelta hse
  have hterms := adaptTerms_of_silence hw htarget hepsr hpos hse
  rw [← hbin, ← hdl, ← State.termsOn] at hterms
  have hnum : ∀ x ∈ (s.termsOn target).t, s.num.isnan x = false := by
    rw [hterms, hbin]
    intro x hx
    rw [List.eq_of_mem_replicate hx]
    decide
  have hnovelty : s.num.max (s.termsOn target).t = silence := by rw [hterms, hbin]; exact maxSeq_zeros _
  have houtput : (s.termsOn target).output = silence := by rw [hterms]
  have hsummed : s.summed target = s.w.map fun x => fadd x (silentDelta s.mu s.epsr target) := by
    rw [State.summed, hterms, hbin]; exact zipWith_replicate_length ..
  cases hgate : s.num.flt (s.num.max (s.termsOn target).t) s.thr
  case false =>
    have hexec := exec_adapt_of_closed d fits hnum hgate
    rw [hnovelty, houtput] at hexec
    exact ⟨s.w, hexec, rfl⟩
  case true =>
    have hsum : ∀ x ∈ s.summed target, s.num.isnan x = false := by
      rw [hsummed, hbin]
      exact List.forall_mem_map.2 fun x hx => isNaN_fadd_of_finite (hw x hx) (isFinite_of_scaled_eq_zero hdelta)
    have hexec := exec_adapt_of_open d fits hnum hgate hsum
    rw [hnovelty, houtput] at hexec
    refine ⟨s.summed target, hexec, ?_⟩
    rw [hsummed, List.map_map]
    exact List.map_congr_left fun x hx => scaled_fadd_zero (hw x hx) hdelta

end Sys2Proof.Machine
end

section
/-! The engine's construction and one iteration by `ITER` (R201, R203, R210, R213). -/

namespace Sys2Proof.Machine

/-- Settles O28: the weights are the draw `Config.w0`, `N` finite samples (R60). -/
theorem enginitConstructsTheEngine : Obligations.EnginitConstructsTheEngine := fun _ s d =>
  ⟨Config.w0 s.draws s.cfg.n, w0_length _ _, w0_finite _ _, gate_engineOnly d⟩

/-! ### Step 6 of an iteration -/

/-- With telemetry off, or off the stride, the end of an iteration is its count alone (R203, R210). -/
theorem countIteration_of_off_stride {s : State} (h : s.telemEn = false ∨ (s.iter + 1) % s.cfg.tstride ≠ 0) :
    countIteration s = { s with iter := s.iter + 1 } := by
  have hoff : ¬ (s.telemEn && (s.iter + 1) % s.cfg.tstride = 0) = true := by
    rcases h with h | h <;> simp [h]
  exact if_neg hoff

/-- On the stride with telemetry on, the counted state emits a telemetry word (R203, R210). -/
theorem countIteration_of_on_stride {s : State} (hen : s.telemEn = true) (hst : (s.iter + 1) % s.cfg.tstride = 0) :
    countIteration s = emitTelemetry { s with iter := s.iter + 1 } := by
  have hon : (s.telemEn && (s.iter + 1) % s.cfg.tstride = 0) = true := by simp [hen, hst]
  exact if_pos hon

/-! ### `ITER` with work, under direct access -/

section Iter

variable {s : State} {m r : Sample} {ms rs : List Sample} (hm : s.mic.buf = m :: ms) (hr : s.ref.buf = r :: rs)
  (ho : s.out.buf.length < s.out.cap) (fits : (shiftIn s.dl r).length = s.w.length)
include hm hr ho fits

/-- An iteration in which `adapt` raises `NaNWeight` stops after step 3 (R213). -/
theorem iterate_of_nan (hnan : (adaptOfIteration m r s).nan = true) :
    iterate s = .nanWeight (afterStepThree m r ms rs s).raiseNaNWeight := by
  rw [iterate_of_work hm hr ho, if_pos fits, if_pos hnan]

/-- An iteration in which it does not completes: the state after step 5, counted, and the two results (R203). -/
theorem iterate_of_not_nan (hnan : (adaptOfIteration m r s).nan = false) :
    iterate s = .ok (cascade s.num s.lp s.hp (s.num.fsub m (adaptOfIteration m r s).output)).1
      (adaptOfIteration m r s).novelty (countIteration (afterStepFive m r ms rs s)) := by
  rw [iterate_of_work hm hr ho, if_pos fits, if_neg (by simp [hnan])]

variable (d : s.DirectAccess)
include d

theorem exec_iter_of_nan (hnan : (adaptOfIteration m r s).nan = true) :
    exec .iter s = .next ((afterStepThree m r ms rs s).raiseNaNWeight.reply .nanWeight 0 0) := by
  refine (gate_engineOnly d).trans ?_
  rw [iterCommand, iterate_of_nan hm hr ho fits hnan]

theorem exec_iter_of_not_nan (hnan : (adaptOfIteration m r s).nan = false) :
    exec .iter s = .next ((countIteration (afterStepFive m r ms rs s)).reply .ok (adaptOfIteration m r s).novelty
      (cascade s.num s.lp s.hp (s.num.fsub m (adaptOfIteration m r s).output)).1) := by
  refine (gate_engineOnly d).trans ?_
  rw [iterCommand, iterate_of_not_nan hm hr ho fits hnan]

end Iter

/-- Settles O30: `exec_iter_of_not_nan`, where step 6 counts and emits nothing. -/
theorem iterRunsOneIteration : Obligations.IterRunsOneIteration := by
  intro m r ms rs s d hm hr ho fits a lp hp hnan hoff
  rw [exec_iter_of_not_nan hm hr ho fits d hnan, countIteration_of_off_stride (by exact hoff)]
  rfl

/-- Settles O31: `exec_iter_of_not_nan`, where step 6 emits a word; its time stamp is the draw after those of `adapt`, and the
length of `OUT` counts the sample just pushed. -/
theorem telemetryWordOnTheStride : Obligations.TelemetryWordOnTheStride := by
  intro m r ms rs s d hm hr ho fits a lp hp hnan hen hst
  have hout : s.out.buf.length + 1 = (s.out.buf ++ [hp.1]).length := by simp
  refine ⟨Config.drawElapsed a.draws, ?_⟩
  rw [exec_iter_of_not_nan hm hr ho fits d hnan, countIteration_of_on_stride (by exact hen) (by exact hst), hout]
  rfl

/-- Settles O32: by the outcome of `adapt`. -/
theorem iterFaultStopsAfterStepThree : Obligations.IterFaultStopsAfterStepThree := by
  intro m r ms rs s d hm hr ho fits a
  cases hnan : a.nan
  case true => exact ⟨_, exec_iter_of_nan hm hr ho fits d hnan, rfl⟩
  case false =>
    refine ⟨_, exec_iter_of_not_nan hm hr ho fits d hnan, ?_⟩
    rw [if_neg Bool.false_ne_true]
    simp [afterStepFive, afterStepThree]

end Sys2Proof.Machine
end

section
/-! `RUNONCE` (R206 to R208): each pass of its drain loop, and the run from its first pass to its response. -/

namespace Sys2Proof.Machine

/-! ### One step of a `RUNONCE` -/

/-- On `A_CTL`'s turn a `RUNONCE` in progress takes its next step. -/
theorem step_onTurn_of_runOnce {s : State} {r : RunOnce} (hctl : s.ctl = .runOnce r) :
    step (s.onTurn (.agent .ctl)) = runOnceStep r s := by
  have hfetch : fetch (s.onTurn (.agent .ctl)) = .done (runOnceStep r s) := by
    change controllerTurn s = _
    rw [controllerTurn, hctl]
  rw [step, hfetch]

/-- With no turn listed a `RUNONCE` in progress takes its next step. -/
theorem step_of_runOnce {s : State} {r : RunOnce} (hturns : s.turns = []) (hctl : s.ctl = .runOnce r) :
    step s = runOnceStep r s := by
  simp only [step, fetch, hturns, defaultTurn, takeTurn, controllerTurn, hctl]

/-- The loop condition fails when an input is empty or `OUT` is full (R202). -/
theorem cond_eq_false {s : State} (h : s.mic.buf = [] ∨ s.ref.buf = [] ∨ s.out.cap ≤ s.out.buf.length) : s.cond = false := by
  rw [Bool.eq_false_iff, ne_eq, cond_iff]
  rintro ⟨⟨m, ms, hm⟩, ⟨r, rs, hr⟩, ho⟩
  rcases h with h | h | h
  · simp [h] at hm
  · simp [h] at hr
  · omega

/-- The low-water test of a `RUNONCE` (R207). -/
theorem runOnceStep_lowtest (n z : Nat) (s : State) :
    runOnceStep { phase := .lowtest, n := n, z := z } s =
      .next (if s.lowWater then { s.report .starved with ctl := .runOnce { phase := .refill, n := n, z := z } }
        else finishRunOnce .ok z n s) := rfl

/-- One test and push of its refill (R208). -/
theorem runOnceStep_refill (n z : Nat) (s : State) :
    runOnceStep { phase := .refill, n := n, z := z } s =
      .next (if s.out.buf.length < s.cfg.refill then
        { pushSilence s with ctl := .runOnce { phase := .refill, n := n, z := z + 1 } }
        else finishRunOnce .ok z n s) := rfl

section Drain

variable {s : State} {n z : Nat}

/-- A drain pass without work leaves for the low-water test. -/
theorem runOnceStep_drain_of_noWork (h : s.cond = false) :
    runOnceStep { phase := .drain, n := n, z := z } s =
      .next { s with ctl := .runOnce { phase := .lowtest, n := n, z := z } } := by
  rw [runOnceStep, iterate_noWork h]

variable {m r : Sample} {ms rs : List Sample} (hm : s.mic.buf = m :: ms) (hr : s.ref.buf = r :: rs)
  (ho : s.out.buf.length < s.out.cap) (fits : (shiftIn s.dl r).length = s.w.length)
include hm hr ho fits

/-- A drain pass in which `adapt` raises `NaNWeight` ends the `RUNONCE` (R206, R231). -/
theorem runOnceStep_drain_of_nan (hnan : (adaptOfIteration m r s).nan = true) :
    runOnceStep { phase := .drain, n := n, z := z } s =
      .next (finishRunOnce .nanWeight 0 0 (afterStepThree m r ms rs s).raiseNaNWeight) := by
  rw [runOnceStep, iterate_of_nan hm hr ho fits hnan]

/-- A drain pass that completes an iteration counts it (R206). -/
theorem runOnceStep_drain_of_not_nan (hnan : (adaptOfIteration m r s).nan = false) :
    runOnceStep { phase := .drain, n := n, z := z } s =
      .next { countIteration (afterStepFive m r ms rs s) with
        ctl := .runOnce { phase := .drain, n := n + 1, z := z } } := by
  rw [runOnceStep, iterate_of_not_nan hm hr ho fits hnan]

end Drain

/-- The noted port is no part of what step 6 of an iteration reads. -/
theorem countIteration_withPort (p : Port) (s : State) :
    countIteration { s with curPort := p } = { countIteration s with curPort := p } := by
  unfold countIteration; dsimp only; split <;> rfl

/-- Settles O34: a first pass and a later one are the same step, `runOnceStep` in the phase `drain`. -/
theorem runonceStartsItsDrainLoop : Obligations.RunonceStartsItsDrainLoop := by
  intro s pass n z hheld hpass
  have hstep : pass = runOnceStep { phase := .drain, n := n, z := z } s := by
    rcases hpass with ⟨rfl, hport, rfl, rfl⟩ | ⟨rfl, hctl⟩
    · exact gate_engineOnly ⟨hport, hheld⟩
    · exact step_onTurn_of_runOnce hctl
  subst hstep
  refine ⟨fun h => runOnceStep_drain_of_noWork (cond_eq_false h), fun m r ms rs hm hr ho fits => ?_⟩
  intro a
  cases hnan : a.nan
  case true => exact runOnceStep_drain_of_nan hm hr ho fits hnan
  case false =>
    rw [if_neg Bool.false_ne_true]
    have hiter := exec_iter_of_not_nan (s := { s with curPort := .ctl }) hm hr ho fits ⟨rfl, hheld⟩ hnan
    have hcount := countIteration_withPort .ctl (afterStepFive m r ms rs s)
    have hport : (countIteration (afterStepFive m r ms rs s)).curPort = s.curPort := countIteration_curPort _
    refine ⟨_, _, _, hiter.trans (congrArg (fun t => Host.Outcome.next (State.reply t _ _ _)) hcount), ?_⟩
    rw [runOnceStep_drain_of_not_nan hm hr ho fits hnan, ← hport]

/-! ### Runs -/

/-- A first step that answers a state leaves the rest of the run to it. -/
theorem run_succ_of_next {M : Host.Core} {s t : M.State} (h : M.step s = .next t) (k : Nat) :
    M.run (k + 1) s = M.run k t := by
  rw [Host.Core.run, h]

/-- `k` steps, each answering a state, lead from the first state to the second. -/
inductive Reaches : Nat → State → State → Prop where
  | refl (s : State) : Reaches 0 s s
  | step {k : Nat} {s t u : State} (first : step s = .next t) (rest : Reaches k t u) : Reaches (k + 1) s u

/-- Such steps are a run of the host's machine. -/
theorem Reaches.run {k : Nat} {s t : State} (h : Reaches k s t) : core.run k s = .next t := by
  induction h with
  | refl => rfl
  | step first _ ih => exact (run_succ_of_next (M := core) first _).trans ih

theorem Reaches.single {s t : State} (h : Machine.step s = .next t) : Reaches 1 s t := .step h (.refl t)

theorem Reaches.trans {j k : Nat} {s t u : State} (h : Reaches j s t) (hk : Reaches k t u) : Reaches (j + k) s u := by
  induction h with
  | refl => rwa [Nat.zero_add]
  | step first _ ih => rw [Nat.succ_add]; exact .step first (ih hk)

/-! ### The drain loop -/

/-- The number of iterations that find work: a pair of samples and room for each (R202). -/
def State.work (s : State) : Nat := min (min s.mic.buf.length s.ref.buf.length) (s.out.cap - s.out.buf.length)

theorem work_pos_iff {s : State} : 0 < s.work ↔ s.cond = true := by
  simp only [State.work, State.cond, Bool.and_eq_true, decide_eq_true_eq]
  omega

/-- What iterations of a `RUNONCE` that raise no fault leave, `filtered` being the samples they pushed (R203, R206). -/
structure Drained (s : State) (filtered : List Sample) (t : State) : Prop where
  cfg : t.cfg = s.cfg
  mic : t.mic = { s.mic with buf := s.mic.buf.drop filtered.length }
  ref : t.ref = { s.ref with buf := s.ref.buf.drop filtered.length }
  out : t.out = { s.out with buf := s.out.buf ++ filtered }
  iter : t.iter = s.iter + filtered.length
  sched : t.sched = s.sched
  fault : t.fault = s.fault
  starved : t.starved = s.starved
  diag : t.diag = s.diag
  responses : t.responses = s.responses
  turns : t.turns = s.turns

theorem Drained.refl (s : State) : Drained s [] s where
  cfg := rfl
  mic := rfl
  ref := rfl
  out := by simp
  iter := rfl
  sched := rfl
  fault := rfl
  starved := rfl
  diag := rfl
  responses := rfl
  turns := rfl

theorem Drained.trans {s t u : State} {fs gs : List Sample} (h : Drained s fs t) (k : Drained t gs u) :
    Drained s (fs ++ gs) u where
  cfg := k.cfg.trans h.cfg
  mic := by rw [k.mic, h.mic]; simp
  ref := by rw [k.ref, h.ref]; simp
  out := by rw [k.out, h.out]; simp
  iter := by rw [k.iter, h.iter, List.length_append, Nat.add_assoc]
  sched := k.sched.trans h.sched
  fault := k.fault.trans h.fault
  starved := k.starved.trans h.starved
  diag := k.diag.trans h.diag
  responses := k.responses.trans h.responses
  turns := k.turns.trans h.turns

theorem Drained.work {s t : State} {fs : List Sample} (h : Drained s fs t) : t.work = s.work - fs.length := by
  unfold State.work
  rw [h.mic, h.ref, h.out]
  simp only [List.length_drop, List.length_append]
  omega

/-- A completed iteration pushes one sample. -/
theorem drained_afterStepFive {s : State} {m r : Sample} {ms rs : List Sample} (hm : s.mic.buf = m :: ms)
    (hr : s.ref.buf = r :: rs) (c : CtlBusy) :
    Drained s [(cascade s.num s.lp s.hp (s.num.fsub m (adaptOfIteration m r s).output)).1]
      { countIteration (afterStepFive m r ms rs s) with ctl := c } := by
  constructor <;> simp [afterStepFive, afterStepThree, hm, hr]

/-- `RUNONCE` has ended with `NaNWeight`: the fault entered and answered (R213, R231, R252). -/
structure EndedInFault (s t : State) : Prop where
  ctl : t.ctl = .ready
  sched : t.sched = .faulted
  fault : t.fault = true
  starved : t.starved = s.starved
  diag : t.diag = s.diag ++ [.nanWeight]
  responses : t.responses = s.responses ++ [{ port := .ctl, st := .nanWeight, d1 := 0, d0 := 0 }]

theorem Drained.endedInFault {s t u : State} {fs : List Sample} (h : Drained s fs t) (k : EndedInFault t u) :
    EndedInFault s u :=
  { k with starved := k.starved.trans h.starved, diag := h.diag ▸ k.diag, responses := h.responses ▸ k.responses }

/-- A pass with work, the storages well formed, completes an iteration or ends the `RUNONCE` in the fault. -/
theorem step_drain_of_work {s : State} {n : Nat} (hinv : Inv s) (hturns : s.turns = [])
    (hctl : s.ctl = .runOnce { phase := .drain, n := n, z := 0 }) (hwork : 0 < s.work) :
    ∃ t, step s = .next t ∧
      (EndedInFault s t ∨ ∃ f, Drained s [f] t ∧ t.ctl = .runOnce { phase := .drain, n := n + 1, z := 0 }) := by
  obtain ⟨⟨m, ms, hm⟩, ⟨r, rs, hr⟩, ho⟩ := cond_iff.1 (work_pos_iff.1 hwork)
  have fits : (shiftIn s.dl r).length = s.w.length := by
    obtain ⟨hdl, hw, -⟩ := (wf_iff s).1 hinv.storage
    have htaps := hinv.taps_pos
    rw [shiftIn_length]; omega
  rw [step_of_runOnce hturns hctl]
  cases hnan : (adaptOfIteration m r s).nan
  case true => exact ⟨_, runOnceStep_drain_of_nan hm hr ho fits hnan, .inl ⟨rfl, rfl, rfl, rfl, rfl, rfl⟩⟩
  case false =>
    exact ⟨_, runOnceStep_drain_of_not_nan hm hr ho fits hnan, .inr ⟨_, drained_afterStepFive hm hr _, rfl⟩⟩

/-- The drain loop: as many iterations as there is work, unless one of them ends the `RUNONCE` in the fault. -/
theorem reaches_drained {s : State} {n w : Nat} (hinv : Inv s) (hturns : s.turns = [])
    (hctl : s.ctl = .runOnce { phase := .drain, n := n, z := 0 }) (hwork : s.work = w) :
    (∃ k ≤ w, ∃ t, Reaches k s t ∧ 0 < w ∧ EndedInFault s t) ∨
      ∃ t fs, Reaches w s t ∧ Drained s fs t ∧ fs.length = w ∧ (w = 0 → t = s) ∧
        t.ctl = .runOnce { phase := .drain, n := n + w, z := 0 } := by
  induction w generalizing s n with
  | zero => exact .inr ⟨s, [], .refl s, .refl s, rfl, fun _ => rfl, hctl⟩
  | succ w ih =>
    obtain ⟨t, hstep, hfault | ⟨f, hdrained, hctl'⟩⟩ := step_drain_of_work hinv hturns hctl (by omega)
    · exact .inl ⟨1, by omega, t, .single hstep, by omega, hfault⟩
    · have hwork' : t.work = w := by rw [hdrained.work, hwork]; rfl
      rcases ih (inv_step hinv hstep) (hdrained.turns.trans hturns) hctl' hwork' with
        ⟨k, hk, u, hrun, -, hfault⟩ | ⟨u, fs, hrun, hrest, hlen, -, hctl''⟩
      · exact .inl ⟨k + 1, by omega, u, .step hstep hrun, by omega, hdrained.endedInFault hfault⟩
      · refine .inr ⟨u, f :: fs, .step hstep hrun, hdrained.trans hrest, by simp [hlen], nofun, ?_⟩
        rw [hctl'', Nat.add_assoc, Nat.add_comm 1]

/-! ### The low-water test and the refill -/

/-- The state with `k` samples of silence pushed into `OUT`. -/
def State.withSilence (s : State) (k : Nat) : State :=
  { s with out := { s.out with buf := s.out.buf ++ List.replicate k silence } }

@[simp] theorem withSilence_cfg (s : State) (k : Nat) : (s.withSilence k).cfg = s.cfg := rfl

@[simp] theorem withSilence_out (s : State) (k : Nat) :
    (s.withSilence k).out = { s.out with buf := s.out.buf ++ List.replicate k silence } := rfl

@[simp] theorem withSilence_zero (s : State) : s.withSilence 0 = s := by simp [State.withSilence]

theorem withSilence_succ (s : State) (k : Nat) : (s.withSilence 1).withSilence k = s.withSilence (k + 1) := by
  simp [State.withSilence, List.replicate_succ]

/-- The refill: silence up to `REFILL`, then the answer (R208). -/
theorem reaches_refilled {s : State} {n z k : Nat} (hturns : s.turns = [])
    (hctl : s.ctl = .runOnce { phase := .refill, n := n, z := z }) (hcap : s.cfg.refill ≤ s.out.cap)
    (hk : s.cfg.refill - s.out.buf.length = k) :
    Reaches (k + 1) s (finishRunOnce .ok (z + k) n (s.withSilence k)) := by
  induction k generalizing s z with
  | zero =>
    have hstep : step s = .next (finishRunOnce .ok z n s) := by
      rw [step_of_runOnce hturns hctl, runOnceStep_refill, if_neg (by omega)]
    rw [withSilence_zero]
    exact .single hstep
  | succ k ih =>
    have hstep : step s = .next { s.withSilence 1 with ctl := .runOnce { phase := .refill, n := n, z := z + 1 } } := by
      rw [step_of_runOnce hturns hctl, runOnceStep_refill, if_pos (by omega), pushSilence_of_lt (by omega)]
      rfl
    have hrest := ih (s := { s.withSilence 1 with ctl := .runOnce { phase := .refill, n := n, z := z + 1 } }) hturns rfl hcap
      (by simp; omega)
    rw [Nat.add_assoc, Nat.add_comm 1] at hrest
    rw [← withSilence_succ]
    exact .step hstep hrest

/-- What the low-water test reports (R207). -/
def State.testedLow (s : State) : State :=
  { s with starved := s.starved || s.lowWater, diag := s.diag ++ if s.lowWater then [.starved] else [] }

theorem testedLow_of_low {s : State} (h : s.lowWater = true) : s.testedLow = s.report .starved := by
  simp [State.testedLow, State.report, h]

theorem testedLow_of_not_low {s : State} (h : s.lowWater = false) : s.testedLow = s := by
  simp [State.testedLow, h]

/-- The samples of silence that the refill pushes: up to `REFILL` when `OUT` is low (R207, R208). -/
def State.silenceDue (s : State) : Nat := if s.lowWater then s.cfg.refill - s.out.buf.length else 0

/-- A `RUNONCE` that has completed `n` iterations and finds no more work: the low-water test, the refill and the answer
(R206 to R208). -/
def State.answered (n : Nat) (s : State) : State := finishRunOnce .ok s.silenceDue n (s.testedLow.withSilence s.silenceDue)

section Answered

variable (n : Nat) (s : State)

theorem answered_starved : (s.answered n).starved = (s.starved || s.lowWater) := rfl

theorem answered_diag : (s.answered n).diag = s.diag ++ if s.lowWater then [.starved] else [] := rfl

theorem answered_responses : (s.answered n).responses =
    s.responses ++ [{ port := .ctl, st := .ok, d1 := natWord s.silenceDue, d0 := natWord n }] := rfl

theorem answered_out : (s.answered n).out =
    { s.out with buf := s.out.buf ++ List.replicate s.silenceDue silence } := rfl

theorem answered_engine : (s.answered n).engine = s.engine := rfl

end Answered

/-- The low-water test and what follows it, up to the answer. -/
theorem reaches_answered {s : State} {n : Nat} (hturns : s.turns = [])
    (hctl : s.ctl = .runOnce { phase := .lowtest, n := n, z := 0 }) (hcap : s.cfg.refill ≤ s.out.cap) :
    ∃ k ≤ s.cfg.refill + 2, Reaches k s (s.answered n) := by
  have hstep := step_of_runOnce hturns hctl
  rw [runOnceStep_lowtest] at hstep
  unfold State.answered State.silenceDue
  cases hlow : s.lowWater
  case false =>
    rw [hlow, if_neg Bool.false_ne_true] at hstep
    rw [if_neg Bool.false_ne_true, withSilence_zero, testedLow_of_not_low hlow]
    exact ⟨1, by omega, .single hstep⟩
  case true =>
    rw [if_pos hlow] at hstep
    rw [if_pos rfl, testedLow_of_low hlow]
    have hrest := reaches_refilled (s := { s.report .starved with ctl := .runOnce { phase := .refill, n := n, z := 0 } })
      hturns rfl hcap rfl
    rw [Nat.zero_add] at hrest
    exact ⟨s.cfg.refill - s.out.buf.length + 2, by omega, .step hstep hrest⟩

/-- The pass that finds no work, and what follows it, up to the answer. -/
theorem reaches_answered_of_noWork {s : State} {n : Nat} (hturns : s.turns = [])
    (hctl : s.ctl = .runOnce { phase := .drain, n := n, z := 0 }) (hwork : s.work = 0) (hcap : s.cfg.refill ≤ s.out.cap) :
    ∃ k ≤ s.cfg.refill + 3, Reaches k s (s.answered n) := by
  have hcond : s.cond = false := by
    rw [Bool.eq_false_iff, ne_eq, ← work_pos_iff]; omega
  have hstep := (step_of_runOnce hturns hctl).trans (runOnceStep_drain_of_noWork hcond)
  obtain ⟨k, hk, hrun⟩ := reaches_answered (n := n)
    (s := { s with ctl := .runOnce { phase := .lowtest, n := n, z := 0 } }) hturns rfl hcap
  exact ⟨k + 1, Nat.succ_le_succ hk, .step hstep hrun⟩

/-- Settles O33: the drain loop (`reaches_drained`), then the passes without work up to the answer
(`reaches_answered_of_noWork`), whose low-water test sees the level that the loop has left. -/
theorem runonceDrainsRefillsAndAnswersItsCounts : Obligations.RunonceDrainsRefillsAndAnswersItsCounts := by
  intro n s hinv hturns hctl work level low z
  rcases reaches_drained hinv hturns hctl (w := work) rfl with
    ⟨k, hk, t, hrun, hpos, hfault⟩ | ⟨t, fs, hrun, hdrained, hlen, hstill, hctl'⟩
  · exact ⟨k, by omega, t, hrun.run, hfault.ctl, .inl ⟨hpos, hfault.sched, hfault.fault, hfault.starved, hfault.diag,
      hfault.responses⟩⟩
  · have hcap : t.cfg.refill ≤ t.out.cap := by
      obtain ⟨-, -, hout⟩ := hinv.caps
      rw [hdrained.cfg, hdrained.out, hout]
      exact hinv.config.refill
    have hwork : t.work = 0 := by rw [hdrained.work, hlen]; exact Nat.sub_self work
    have hlevel : t.out.buf.length = level := by rw [hdrained.out, List.length_append, hlen]
    have hlow : t.lowWater = low := by rw [State.lowWater, hlevel, hdrained.cfg, hdrained.out]
    have hz : t.silenceDue = z := by rw [State.silenceDue, hlow, hlevel, hdrained.cfg]
    obtain ⟨k, hk, hrest⟩ := reaches_answered_of_noWork (hdrained.turns.trans hturns) hctl' hwork hcap
    rw [hdrained.cfg] at hk
    refine ⟨work + k, by omega, _, (hrun.trans hrest).run, rfl, .inr ⟨hdrained.sched, hdrained.fault, ?starved, ?diag,
      ?responses, hlen ▸ hdrained.mic, hlen ▸ hdrained.ref, hlen ▸ hdrained.iter, ?engine, fs, hlen, ?out⟩⟩
    case starved => rw [answered_starved, hdrained.starved, hlow]
    case diag => rw [answered_diag, hdrained.diag, hlow]
    case responses => rw [answered_responses, hdrained.responses, hz]; rfl
    case engine => exact fun h0 => by rw [answered_engine, hstill h0]
    case out => rw [answered_out, hz, hdrained.out]

end Sys2Proof.Machine
end

section
/-! `OUT_OVERRUN` (R204): an iteration would set it whose push found `OUT` full, and the loop condition (R202) leaves room. -/

namespace Sys2Proof.Machine

theorem outOverrun_iterate_ok {s t : State} {f v : Sample} (h : iterate s = .ok f v t) : t.outOverrun = s.outOverrun := by
  obtain ⟨m, r, ms, rs, -, -, rfl⟩ := iterate_eq_ok h
  exact countIteration_outOverrun _

theorem outOverrun_iterate_nanWeight {s t : State} (h : iterate s = .nanWeight t) : t.outOverrun = s.outOverrun := by
  obtain ⟨m, r, ms, rs, rfl⟩ := iterate_eq_nanWeight h
  rfl

theorem outOverrun_runOnceStep {r : RunOnce} {s t : State} (h : runOnceStep r s = .next t) :
    t.outOverrun = s.outOverrun := by
  rcases runOnceStep_cases h with ⟨f, v, t', -, hi, rfl⟩ | ⟨-, -, rfl⟩ | ⟨t', -, hi, rfl⟩ | ⟨-, -, rfl⟩ | ⟨-, -, rfl⟩ | rfl
  · exact (outOverrun_iterate_ok hi :)
  · rfl
  · exact (outOverrun_iterate_nanWeight hi :)
  · rfl
  · exact pushSilence_outOverrun s
  · rfl

theorem outOverrun_answerStop (st : Status) (s : State) : (answerStop st s).outOverrun = s.outOverrun := by
  unfold answerStop; split <;> rfl

theorem outOverrun_engineStep {s t : State} (h : engineStep s = .next t) : t.outOverrun = s.outOverrun := by
  cases (engineStep_effect h).1 with
  | noThread | newPass | enter | starved | useToken => rfl
  | stopped => exact outOverrun_answerStop .ok { s with sched := .stopped, killPending := false }
  | worked f v t' hi => exact (outOverrun_iterate_ok hi :)
  | fault t' hi => exact (outOverrun_answerStop .panic t').trans (outOverrun_iterate_nanWeight hi)
  | refill => exact pushSilence_outOverrun s

theorem outOverrun_exec {i : Instr} {s t : State} (h : exec i s = .next t) : t.outOverrun = s.outOverrun := by
  cases exec_effect h with
  | push _ q | pop _ q => exact setFifo_outOverrun s q _
  | bqtick _ f x => exact setBiquad_outOverrun s f _
  | iterOk _ f v t' hi => exact (outOverrun_iterate_ok hi :)
  | iterFault _ t' hi => exact (outOverrun_iterate_nanWeight hi :)
  | runonce _ _ hr => exact outOverrun_runOnceStep hr
  | reply | bqinitLp | bqinitHp | casc | dlpush | dlinit | adapt | adaptFault | enginit | start | stop | stopAgain | unpark
  | telemEn | thr => rfl

/-- Settles O35: every step leaves the flag as it is, but for reset, which clears it. -/
theorem outputOverrunNeverHappens : Obligations.OutputOverrunNeverHappens := by
  intro s t h hclear
  cases step_cases h with
  | reset => rfl
  | stay | illegal => exact hclear
  | runOnce r t _ hr => exact (outOverrun_runOnceStep hr).trans hclear
  | engine t he => exact (outOverrun_engineStep he).trans hclear
  | exec p w ws i t _ _ _ he => exact (outOverrun_exec he).trans hclear

end Sys2Proof.Machine
end

section
/-! Fill ratios under the default `NUM` (R211): the lengths are converted in order, and a quotient of samples in order does not
round past 1. -/

namespace Sys2Proof.Machine

/-! ### Rounding keeps the order -/

theorem isFinite_of_number {a : Sample} (hnan : isNaN a = false) (hinf : isInf a = false) : Config.IsFinite a := by
  rw [isFinite_iff]
  intro he
  simp only [isNaN, isInf, he, decide_true, Bool.true_and, decide_eq_false_iff_not] at hnan hinf
  exact hnan hinf

section Order

variable {p : Int} {q : Nat} {r : Sample} (h : RoundsTo p q r) (hq : 0 < q) (hfin : isInf r = false)
include h hq hfin

/-- Rounding does not pass a finite sample from below. -/
theorem RoundsTo.scaled_le {x : Sample} (hx : Config.IsFinite x) (hle : p ≤ q * scaled x) : scaled r ≤ scaled x := by
  by_contra hlt
  have hmul : q * scaled x < q * scaled r := mul_lt_mul_of_pos_left (not_le.1 hlt) (by exact_mod_cast hq)
  have hnear := h.nearest hfin x hx
  omega

/-- Rounding does not pass a finite sample from above. -/
theorem RoundsTo.le_scaled {x : Sample} (hx : Config.IsFinite x) (hle : q * scaled x ≤ p) : scaled x ≤ scaled r := by
  by_contra hlt
  have hmul : q * scaled r < q * scaled x := mul_lt_mul_of_pos_left (not_le.1 hlt) (by exact_mod_cast hq)
  have hnear := h.nearest hfin x hx
  omega

/-- Of two values over the same denominator the smaller is not rounded above the larger. -/
theorem RoundsTo.scaled_mono {p' : Int} {r' : Sample} (h' : RoundsTo p' q r') (hfin' : isInf r' = false) (hlt : p < p') :
    scaled r ≤ scaled r' := by
  by_contra hgt
  have hmul : q * scaled r' < q * scaled r := mul_lt_mul_of_pos_left (not_le.1 hgt) (by exact_mod_cast hq)
  have hnear := h.nearest hfin r' (isFinite_of_number h'.number hfin')
  have hnear' := h'.nearest hfin' r (isFinite_of_number h.number hfin)
  omega

end Order

/-! ### Lengths as samples -/

/-- A count below 2^32 is far below the overflow threshold. -/
theorem isInf_u2f {n : Nat} (hn : n < 2 ^ 32) : isInf (u2f n) = false := by
  rw [Bool.eq_false_iff, ne_eq, (roundsTo_u2f n).overflow]
  omega

theorem isFinite_u2f {n : Nat} (hn : n < 2 ^ 32) : Config.IsFinite (u2f n) :=
  isFinite_of_number (roundsTo_u2f n).number (isInf_u2f hn)

theorem scaled_u2f_mono {m n : Nat} (hle : m ≤ n) (hn : n < 2 ^ 32) : scaled (u2f m) ≤ scaled (u2f n) := by
  rcases hle.eq_or_lt with rfl | hlt
  · exact le_rfl
  · exact (roundsTo_u2f m).scaled_mono Nat.one_pos (isInf_u2f (hlt.trans hn)) (roundsTo_u2f n) (isInf_u2f hn) (by omega)

/-! ### The quotient -/

/-- A finite sample from 0 on, divided by one that is positive and not less, gives a number from 0 to 1. -/
theorem fdiv_unitInterval {a b : Sample} (ha : Config.IsFinite a) (hb : Config.IsFinite b) (h0 : 0 ≤ scaled a)
    (hpos : 0 < scaled b) (hle : scaled a ≤ scaled b) :
    isNaN (fdiv a b) = false ∧ 0 ≤ scaled (fdiv a b) ∧ scaled (fdiv a b) ≤ scaled (0x3F800000 : Sample) := by
  have hone : scaled (0x3F800000 : Sample) = 2 ^ 149 := by decide
  have hround := roundsTo_fdiv ha hb hpos.ne'
  rw [Int.sign_eq_one_of_pos hpos, mul_one] at hround
  have hq : 0 < (scaled b).natAbs := Int.natAbs_pos.2 hpos.ne'
  have hcast : ((scaled b).natAbs : Int) = scaled b := Int.natAbs_of_nonneg hpos.le
  have hfin : isInf (fdiv a b) = false := by
    rw [Bool.eq_false_iff, ne_eq, hround.overflow]
    omega
  refine ⟨hround.number, ?_, hround.scaled_le hq hfin (by decide) ?_⟩
  · exact hround.le_scaled (x := silence) hq hfin (by decide) (by rw [show scaled silence = 0 by decide]; omega)
  · rw [hone, hcast]; omega

/-- Settles O36: `fdiv_unitInterval` on the two converted lengths. -/
theorem fillRatiosAreInTheUnitInterval : Obligations.FillRatiosAreInTheUnitInterval := by
  intro q hcap hlt hlen
  have hzero : scaled (u2f 0) = 0 := by decide
  have hone : scaled (u2f 1) = 2 ^ 149 := by decide
  have h0 := scaled_u2f_mono (Nat.zero_le q.buf.length) (hlen.trans_lt hlt)
  have h1 := scaled_u2f_mono hcap hlt
  obtain ⟨hnum, hge, hle⟩ := fdiv_unitInterval (isFinite_u2f (hlen.trans_lt hlt)) (isFinite_u2f hlt) (hzero ▸ h0)
    (by omega) (scaled_u2f_mono hlen hlt)
  refine ⟨hnum, ?_, ?_⟩
  · rw [Bool.eq_false_iff]
    exact fun h => not_lt.2 hge ((flt_iff hnum (by decide)).1 h)
  · rw [Bool.eq_false_iff]
    exact fun h => not_lt.2 hle ((flt_iff (by decide) hnum).1 h)

end Sys2Proof.Machine
end

section
/-! Run control and register access (R220 to R231, R233): `START`, `STOP`, `UNPARK`, `CSRW`, the phases of the engine
thread one by one, and the transitions of `SCHED` that all of these take. -/

namespace Sys2Proof.Machine

/-! ### The commands -/

theorem gate_controller {s : State} {run : StepOutcome} (h : s.curPort = .ctl) : gate controller s run = run :=
  gate_always (by simp [controller, h])

theorem exec_start {s : State} (h : s.curPort = .ctl) : exec .start s = .next (startCommand s) := gate_controller h

theorem exec_stop {s : State} (h : s.curPort = .ctl) : exec .stop s = .next (stopCommand s) := gate_controller h

/-- Settles O37: the port check passes, and `START` goes by the five values of `SCHED`. -/
theorem startStartsTheEngineThread : Obligations.StartStartsTheEngineThread := by
  intro s hport
  rw [exec_start hport, startCommand]
  refine ⟨?_, ?_, fun h => by rw [h]⟩
  · rintro (h | h) <;> rw [h]
  · rintro (h | h) <;> rw [h]

/-- While a `STOP` waits, a turn of `A_CTL` changes nothing (R222). -/
theorem step_onTurn_of_waiting {s : State} (h : s.ctl = .waitStop) : step (s.onTurn (.agent .ctl)) = .next s := by
  have hfetch : fetch (s.onTurn (.agent .ctl)) = .done (.next s) := by
    change controllerTurn s = _
    rw [controllerTurn, h]
  rw [step, hfetch]

/-- Settles O38: `step_onTurn_of_waiting`, and `STOP` by the value of `SCHED`. -/
theorem stopRequestsAndWaits : Obligations.StopRequestsAndWaits := by
  refine ⟨fun s => step_onTurn_of_waiting, fun s hport => ?_⟩
  rw [exec_stop hport, stopCommand]
  refine ⟨fun h => by rw [h], ?_, fun h => by rw [h]⟩
  rintro (h | h) <;> rw [h]

theorem threadRuns_iff {c : Sched} : c.threadRuns = true ↔ c = .running ∨ c = .stopRequested := by
  cases c <;> simp [Sched.threadRuns]

/-- Without a thread an `UNPARK` is lost (R230). -/
theorem unparkCommand_of_noThread {s : State} (h : s.sched.threadRuns = false) :
    unparkCommand s = { s with draws := s.draws + 1 }.reply .ok 0 0 := by
  rw [unparkCommand, h, Bool.and_false, Bool.or_false]

/-- Settles O39: the delivery is the free value `State.delivered`. -/
theorem unparkIsBestEffort : Obligations.UnparkIsBestEffort := by
  intro s hport
  have hexec : exec .unpark s = .next (unparkCommand s) := gate_onlyOn hport
  have hruns : s.sched.threadRuns = decide (s.sched = .running ∨ s.sched = .stopRequested) := by
    rw [Bool.eq_iff_iff, threadRuns_iff, decide_eq_true_iff]
  refine ⟨⟨s.delivered, ?_⟩, fun h => ?_⟩
  · rw [hexec, unparkCommand, hruns, Bool.decide_or]
  · rw [hexec, unparkCommand_of_noThread]
    rcases h with h | h | h <;> rw [h] <;> rfl

theorem csrwCommand_of_reserved {n : Nat} (h1 : n ≠ 0x01) (h4 : n ≠ 0x04) (v : BitVec 32) (s : State) :
    csrwCommand n v s = s.reply .badIndex 0 0 := by
  unfold csrwCommand
  split
  · exact absurd rfl h1
  · exact absurd rfl h4
  · rfl

/-- Settles O48: the port check passes; any number but 0x01 and 0x04 is `csrwCommand_of_reserved`. -/
theorem csrwWritesCtrlAndThrOnly : Obligations.CsrwWritesCtrlAndThrOnly := fun _ v s d =>
  ⟨gate_engineOnly d, gate_engineOnly d,
    fun h1 h4 => (gate_engineOnly d).trans (congrArg _ (csrwCommand_of_reserved h1 h4 v s))⟩

/-! ### The phases -/

/-- A turn of `A_ENG` is a step of the engine thread. -/
theorem step_onTurn_engine (s : State) : step (s.onTurn (.agent .eng)) = engineStep s := rfl

/-- Settles O40: by the shutdown signal. -/
theorem checkStopsOrBeginsAPass : Obligations.CheckStopsOrBeginsAPass := by
  intro s hruns hph
  rw [step_onTurn_engine, engineStep_check (threadRuns_iff.2 hruns) hph]
  refine ⟨fun hkill hwait => ?_, fun hkill => by rw [checkStep_of_not_pending hkill]⟩
  rw [checkStep_of_pending hkill, answerStop_of_waiting (by exact hwait)]

theorem lowWater_iff {s : State} : s.lowWater = true ↔ s.cfg.lowDen * s.out.buf.length < s.cfg.lowNum * s.out.cap :=
  decide_eq_true_iff

/-- Settles O43: each phase by its own test. -/
theorem lowOutputIsRefilledWithSilence : Obligations.LowOutputIsRefilledWithSilence := by
  intro s hsched
  have hruns := threadRuns_iff.2 hsched
  rw [step_onTurn_engine]
  refine ⟨fun hph hlow => ?_, fun hph hlow => ?_, fun hph hlen hcap => ?_, fun hph hlen => ?_⟩
  · rw [engineStep_lowtest hruns hph, lowtestStep, if_pos (lowWater_iff.2 hlow)]; rfl
  · rw [engineStep_lowtest hruns hph, lowtestStep, if_neg (lowWater_iff.not.2 (not_lt.2 hlow))]
  · rw [engineStep_refill hruns hph, refillStep, if_pos hlen, pushSilence_of_lt (hlen.trans_le hcap)]
  · rw [engineStep_refill hruns hph, refillStep, if_neg (not_lt.2 hlen)]

/-- Settles O44: `DECIDE` by `worked` and `token`; `PARKED` has one step. -/
theorem decideParksAndTheWakeIsAlwaysEnabled : Obligations.DecideParksAndTheWakeIsAlwaysEnabled := by
  intro s hsched
  have hruns := threadRuns_iff.2 hsched
  rw [step_onTurn_engine]
  refine ⟨fun hph hw => ?_, fun hph hw ht => ?_, fun hph hw ht => ?_, fun hph => engineStep_parked hruns hph⟩
  · rw [engineStep_decide hruns hph, decideStep, if_pos hw]
  · rw [engineStep_decide hruns hph, decideStep, if_neg (by simp [hw]), if_pos ht]
  · rw [engineStep_decide hruns hph, decideStep, if_neg (by simp [hw]), if_neg (by simp [ht])]

/-! ### The drain loop of the engine thread -/

/-- Without work the drain loop leaves for `LOWTEST` (R225). -/
theorem drainStep_of_noWork {s : State} (h : s.cond = false) : drainStep s = .next { s with ph := .lowtest } := by
  rw [drainStep, iterate_noWork h]

/-- An iteration that completes sets `worked` (R225). -/
theorem drainStep_of_ok {s t : State} {f v : Sample} (h : iterate s = .ok f v t) :
    drainStep s = .next { t with worked := true } := by rw [drainStep, h]

/-- The fault answers a waiting `STOP` with `Panic` (R231). -/
theorem drainStep_of_nanWeight {s t : State} (h : iterate s = .nanWeight t) :
    drainStep s = .next (answerStop .panic t) := by rw [drainStep, h]; rfl

/-- Two states that agree once a response has been given agreed before, and the responses are the same. -/
theorem reply_inj {s t : State} {st st' : Status} {d1 d0 d1' d0' : BitVec 32} (h : s.reply st d1 d0 = t.reply st' d1' d0') :
    s = t ∧ st = st' ∧ d1 = d1' ∧ d0 = d0' := by
  cases s; cases t
  simp_all [State.reply, State.answer]

/-- An `ITER` answered OK is an iteration that completed. -/
theorem iterate_of_iterCommand_ok {s t : State} {f v : Sample} (h : iterCommand s = .next (t.reply .ok v f)) :
    iterate s = .ok f v t := by
  unfold iterCommand at h
  cases hi : iterate s with
  | mismatch => rw [hi] at h; cases h
  | noWork | nanWeight | full =>
    rw [hi] at h
    obtain ⟨-, hst, -, -⟩ := reply_inj (Host.Outcome.next.inj h)
    cases hst
  | ok f' v' t' =>
    rw [hi] at h
    obtain ⟨rfl, -, rfl, rfl⟩ := reply_inj (Host.Outcome.next.inj h)
    rfl

/-- The state with another `SCHED` and another noted port: what sets a step of the engine thread apart from direct access. -/
def State.issuedAs (c : Sched) (p : Port) (s : State) : State := { s with sched := c, curPort := p }

theorem countIteration_issuedAs (c : Sched) (p : Port) (s : State) :
    countIteration (s.issuedAs c p) = (countIteration s).issuedAs c p := by
  unfold countIteration; dsimp only [State.issuedAs]; split <;> rfl

/-- An iteration that completes reads and writes neither `SCHED` nor the noted port. -/
theorem iterate_of_issuedAs {s t : State} {c : Sched} {p : Port} {f v : Sample} (h : iterate (s.issuedAs c p) = .ok f v t) :
    iterate s = .ok f v (t.issuedAs s.sched s.curPort) := by
  rcases iterate_cases (s.issuedAs c p) with ⟨he, -⟩ | ⟨m, r, ms, rs, hm, hr, ho, ⟨-, he⟩ | ⟨-, -, he⟩ | ⟨fits, hnan, he⟩⟩ <;>
    rw [he] at h <;> cases h
  rw [iterate_of_not_nan (s := s) hm hr ho fits hnan, ← countIteration_issuedAs]
  rfl

/-- Settles O41: without work `drainStep_of_noWork`; an `ITER` answered OK under direct access is a completed iteration, which
`iterate_of_issuedAs` carries over to the engine thread. -/
theorem drainRunsIterationsUntilNoWork : Obligations.DrainRunsIterationsUntilNoWork := by
  intro s hsched hph
  rw [step_onTurn_engine, engineStep_drain (threadRuns_iff.2 hsched) hph]
  refine ⟨fun h => drainStep_of_noWork (cond_eq_false h), fun t f v h => ?_⟩
  have hcommand : iterCommand (s.issuedAs .idle .ctl) = .next (t.reply .ok v f) :=
    (gate_engineOnly (s := s.issuedAs .idle .ctl) ⟨rfl, rfl⟩).symm.trans h
  exact drainStep_of_ok (iterate_of_issuedAs (iterate_of_iterCommand_ok hcommand))

/-- Settles O42: by the outcome of `adapt`; the fault answers the waiting `STOP` as `answerStop` says. -/
theorem faultWhileStoppingAnswersPanic : Obligations.FaultWhileStoppingAnswersPanic := by
  intro m r ms rs s hsched hph hm hr ho fits a s1
  rw [step_onTurn_engine, engineStep_drain (threadRuns_iff.2 hsched) hph]
  cases hnan : a.nan
  case true => exact ⟨_, drainStep_of_nanWeight (iterate_of_nan hm hr ho fits hnan), rfl⟩
  case false =>
    refine ⟨_, drainStep_of_ok (iterate_of_not_nan hm hr ho fits hnan), ?_⟩
    rw [if_neg Bool.false_ne_true]
    simp [afterStepFive, afterStepThree]

/-! ### The transitions of `SCHED` -/

theorem mayBecome_refl (c : Sched) : c.mayBecome c = true := by cases c <;> rfl

/-- The fault may be raised in any state of the scheduler (R220). -/
theorem mayBecome_faulted (c : Sched) : c.mayBecome .faulted = true := by cases c <;> rfl

/-- `START` is listed from wherever `A_CTL` holds the engine (R220, R221). -/
theorem mayBecome_running {c : Sched} (held : c.held = true) : c.mayBecome .running = true := by
  cases c with
  | idle | stopped => rfl
  | running | stopRequested | faulted => cases held

theorem mayBecome_of_eq {c d : Sched} (h : d = c) : c.mayBecome d = true := h ▸ mayBecome_refl c

theorem mayBecome_of_eq_faulted {c d : Sched} (h : d = .faulted) : c.mayBecome d = true := h ▸ mayBecome_faulted c

theorem sched_iterate_ok {s t : State} {f v : Sample} (h : iterate s = .ok f v t) : t.sched = s.sched :=
  congrArg RunControl.sched (runControl_iterate_ok h)

theorem sched_iterate_nanWeight {s t : State} (h : iterate s = .nanWeight t) : t.sched = .faulted :=
  congrArg RunControl.sched (runControl_iterate_nanWeight h)

theorem sched_answerStop (st : Status) (s : State) : (answerStop st s).sched = s.sched := by
  unfold answerStop; split <;> rfl

theorem mayBecome_runOnceStep {r : RunOnce} {s t : State} (h : runOnceStep r s = .next t) :
    s.sched.mayBecome t.sched = true := by
  rcases runOnceStep_cases h with ⟨f, v, t', -, hi, rfl⟩ | ⟨-, -, rfl⟩ | ⟨t', -, hi, rfl⟩ | ⟨-, -, rfl⟩ | ⟨-, -, rfl⟩ | rfl
  · exact mayBecome_of_eq (sched_iterate_ok hi :)
  · exact mayBecome_refl _
  · exact mayBecome_of_eq_faulted (sched_iterate_nanWeight hi :)
  · exact mayBecome_refl _
  · exact mayBecome_of_eq (pushSilence_sched s)
  · exact mayBecome_refl _

/-- The engine thread stops only on a shutdown signal, which under the invariant is that of a requested stop (R223). -/
theorem mayBecome_engineStep {s t : State} (hinv : Inv s) (h : engineStep s = .next t) : s.sched.mayBecome t.sched = true := by
  obtain ⟨heffect, hruns | rfl⟩ := engineStep_effect h
  · cases heffect with
    | noThread | newPass | enter | starved | useToken => exact mayBecome_refl _
    | stopped _ hkill =>
      have hreq : s.sched = .stopRequested := (hinv.pending hkill).resolve_right (ne_faulted_of_threadRuns hruns)
      rw [sched_answerStop, hreq]; rfl
    | worked f v t' hi => exact mayBecome_of_eq (sched_iterate_ok hi :)
    | fault t' hi => exact mayBecome_of_eq_faulted ((sched_answerStop ..).trans (sched_iterate_nanWeight hi))
    | refill => exact mayBecome_of_eq (pushSilence_sched s)
  · exact mayBecome_refl _

theorem mayBecome_exec {i : Instr} {s t : State} (h : exec i s = .next t) : s.sched.mayBecome t.sched = true := by
  cases exec_effect h with
  | push _ q | pop _ q => exact mayBecome_of_eq (setFifo_sched s q _)
  | bqtick _ f => exact mayBecome_of_eq (setBiquad_sched s f _)
  | adaptFault => exact mayBecome_faulted _
  | iterOk _ f v t' hi => exact mayBecome_of_eq (sched_iterate_ok hi :)
  | iterFault _ t' hi => exact mayBecome_of_eq_faulted (sched_iterate_nanWeight hi :)
  | runonce _ _ hr => exact mayBecome_runOnceStep hr
  | start _ held => exact mayBecome_running held
  | stop _ running => rw [running]; rfl
  | reply | bqinitLp | bqinitHp | casc | dlpush | dlinit | adapt | enginit | stopAgain | unpark | telemEn | thr =>
    exact mayBecome_refl _

/-- Settles O49: one lemma for each kind of step; reset is excluded. -/
theorem schedulerTransitionsAreThoseListed : Obligations.SchedulerTransitionsAreThoseListed := by
  intro s t hinv h hreset
  have hturn : Inv s.atTurn := hinv.schedule s.inbox s.turns.tail s.curPort
  cases step_cases h with
  | reset hr => exact absurd hr hreset
  | stay | illegal => exact mayBecome_refl _
  | runOnce r t _ hr => exact (mayBecome_runOnceStep hr :)
  | engine t he => exact (mayBecome_engineStep hturn he :)
  | exec p w ws i t _ _ _ he => exact (mayBecome_exec he :)

end Sys2Proof.Machine
end

section
/-! A requested `STOP` completes when no data comes, under weak fairness of the engine thread alone (R222, R223, R236): each
of the thread's steps brings it nearer to the `CHECK` that answers, and no step of another agent takes it further away. With
data for ever it need not. -/

namespace Sys2Proof.Machine

/-! ### The way to the `CHECK` that answers -/

/-- An upper bound on the steps of the engine thread from here to the `CHECK` that answers a `STOP`, that step included, when
the drain loop finds no work: `LOWTEST`, `REFILL` up to its mark, `DECIDE`, `PARKED` (R224 to R229). -/
def State.stepsToCheck (s : State) : Nat :=
  match s.ph with
  | .check => 1
  | .parked => 2
  | .decide => 3
  | .refill => s.cfg.refill - s.out.buf.length + 4
  | .lowtest => s.cfg.refill + 5
  | .drain => s.cfg.refill + 6

theorem stepsToCheck_pos (s : State) : 0 < s.stepsToCheck := by
  unfold State.stepsToCheck; split <;> omega

theorem stepsToCheck_le (s : State) : s.stepsToCheck ≤ s.cfg.refill + 6 := by
  unfold State.stepsToCheck; split <;> omega

/-- The step from `s` to `t` has answered the `STOP` OK, and the thread has ended (R223). -/
structure StopAnswered (s t : State) : Prop where
  sched : t.sched = .stopped
  ctl : t.ctl = .ready
  killPending : t.killPending = false
  responses : t.responses = s.responses ++ [{ port := .ctl, st := .ok, d1 := 0, d0 := 0 }]
  engine : t.engine = s.engine

/-- The step from `s` to `t`, one of the engine thread, has brought the thread nearer to that answer. -/
structure StopNearer (s t : State) : Prop where
  sched : t.sched = s.sched
  nearer : t.stepsToCheck < s.stepsToCheck
  responses : t.responses = s.responses
  engine : t.engine = s.engine
  mic : t.mic = s.mic
  ref : t.ref = s.ref
  turns : t.turns = s.turns

section EngineStep

variable {s t : State}

theorem stopAnswered_checkStep (hinv : Inv s) (hreq : s.sched = .stopRequested) : StopAnswered s (checkStep s) := by
  have hwait : s.ctl = .waitStop := hinv.waits.2 hreq
  rw [checkStep_of_pending (hinv.requested hreq), answerStop_of_waiting (by exact hwait)]
  exact ⟨rfl, rfl, rfl, rfl, rfl⟩

theorem stopNearer_lowtestStep (hph : s.ph = .lowtest) : StopNearer s (lowtestStep s) := by
  unfold lowtestStep
  split
  · exact ⟨rfl, by simp [State.stepsToCheck, hph], rfl, rfl, rfl, rfl, rfl⟩
  · exact ⟨rfl, by simp [State.stepsToCheck, hph], rfl, rfl, rfl, rfl, rfl⟩

/-- A push of silence finds room, `REFILL` being at most the capacity (R8, R208). -/
theorem stopNearer_refillStep (hinv : Inv s) (hph : s.ph = .refill) : StopNearer s (refillStep s) := by
  have hcap : s.cfg.refill ≤ s.out.cap := by
    obtain ⟨-, -, hout⟩ := hinv.caps
    exact hinv.config.refill.trans hout.ge
  unfold refillStep
  split
  · rename_i hlen
    rw [pushSilence_of_lt (hlen.trans_le hcap)]
    exact ⟨rfl, by simp [State.stepsToCheck, hph]; omega, rfl, rfl, rfl, rfl, rfl⟩
  · exact ⟨rfl, by simp [State.stepsToCheck, hph], rfl, rfl, rfl, rfl, rfl⟩

theorem stopNearer_decideStep (hph : s.ph = .decide) : StopNearer s (decideStep s) := by
  unfold decideStep
  split_ifs <;> exact ⟨rfl, by simp [State.stepsToCheck, hph], rfl, rfl, rfl, rfl, rfl⟩

/-- With one input empty a step of the engine thread answers the requested `STOP` or comes nearer to it. -/
theorem engineStep_of_stopRequested (hinv : Inv s) (hreq : s.sched = .stopRequested) (hempty : s.mic.buf = [] ∨ s.ref.buf = [])
    (h : engineStep s = .next t) : StopAnswered s t ∨ StopNearer s t := by
  have hnoWork : iterate s = .noWork := iterate_noWork (cond_eq_false (hempty.imp_right .inl))
  rcases engineStep_cases h with ⟨hruns, -⟩ | ⟨-, ⟨-, rfl⟩ | ⟨f, v, t', -, hi, -⟩ | ⟨hph, -, rfl⟩ | ⟨t', -, hi, -⟩ | ⟨hph, rfl⟩ |
    ⟨hph, rfl⟩ | ⟨hph, rfl⟩ | ⟨hph, rfl⟩⟩
  · rw [hreq] at hruns; cases hruns
  · exact .inl (stopAnswered_checkStep hinv hreq)
  · rw [hnoWork] at hi; cases hi
  · exact .inr ⟨rfl, by simp [State.stepsToCheck, hph], rfl, rfl, rfl, rfl, rfl⟩
  · rw [hnoWork] at hi; cases hi
  · exact .inr (stopNearer_lowtestStep hph)
  · exact .inr (stopNearer_refillStep hinv hph)
  · exact .inr (stopNearer_decideStep hph)
  · exact .inr ⟨rfl, by simp [State.stepsToCheck, wakeStep, hph], rfl, rfl, rfl, rfl, rfl⟩

end EngineStep

/-! ### The engine thread alone -/

/-- With no turn listed and no `RUNONCE` in progress the engine thread steps. -/
theorem step_of_no_turns {s : State} (hturns : s.turns = []) (hctl : s.ctl = .waitStop) : step s = engineStep s := by
  simp only [step, fetch, hturns, defaultTurn, takeTurn, hctl]

/-- The engine thread alone answers the `STOP` within the bound. -/
theorem reaches_stopAnswered {s : State} {n : Nat} (hinv : Inv s) (hreq : s.sched = .stopRequested) (hturns : s.turns = [])
    (hempty : s.mic.buf = [] ∨ s.ref.buf = []) (hn : s.stepsToCheck ≤ n) :
    ∃ k ≤ n, ∃ t, Reaches k s t ∧ StopAnswered s t := by
  induction n generalizing s with
  | zero => exact absurd (stepsToCheck_pos s) (by omega)
  | succ n ih =>
    obtain ⟨t, hstep⟩ := answers_step hinv.taps_pos hinv.storage
    have hengine : engineStep s = .next t := (step_of_no_turns hturns (hinv.waits.2 hreq)).symm.trans hstep
    rcases engineStep_of_stopRequested hinv hreq hempty hengine with hdone | hnear
    · exact ⟨1, by omega, t, .single hstep, hdone⟩
    · obtain ⟨k, hk, u, hrun, hdone⟩ := ih (inv_step hinv hstep) (hnear.sched.trans hreq) (hnear.turns.trans hturns)
        (by rwa [hnear.mic, hnear.ref]) (Nat.le_of_lt_succ (hnear.nearer.trans_le hn))
      exact ⟨k + 1, by omega, u, .step hstep hrun, hdone.sched, hdone.ctl, hdone.killPending,
        hnear.responses ▸ hdone.responses, hdone.engine.trans hnear.engine⟩

/-! ### A weakly fair schedule -/

/-- The step from `s` to `t` has left the requested `STOP` where it was. -/
structure StopUnmoved (s t : State) : Prop where
  sched : t.sched = s.sched
  steps : t.stepsToCheck = s.stepsToCheck
  engine : t.engine = s.engine

/-- A command on a callback port other than `P_OUT` leaves the engine thread's way to `CHECK` as it is (R257). -/
theorem CallbackEffect.stopUnmoved {s t : State} (h : CallbackEffect s t) (hp : s.curPort ≠ .out) : StopUnmoved s t := by
  cases h with
  | reply | pushMic | pushRef | unpark => exact ⟨rfl, rfl, rfl⟩
  | popOut _ _ own => exact absurd own hp

/-- A turn of `A_MIC` or `A_REF` does so too, whatever word waits. -/
theorem stopUnmoved_of_port {s t : State} {e : Event} {p : Port} (hctl : p ≠ .ctl) (hout : p ≠ .out)
    (he : e.turn = .agent p.agent) (h : step (s.offer e) = .next t) : StopUnmoved s t := by
  have hfetch : fetch (s.offer e) = issueNext p { s with inbox := s.inbox.append e.words } := by
    rw [fetch, offer_turns, he]
    exact takeTurn_port fun hp => absurd hp hctl
  rw [step, hfetch] at h
  rcases issueNext_cases h with rfl | ⟨w, ws, -, ⟨i, -, hi⟩ | ⟨e, -, rfl⟩⟩
  · exact ⟨rfl, rfl, rfl⟩
  · obtain ⟨hsched, hsteps, hengine⟩ := (exec_callback_effect hctl hi).stopUnmoved hout
    exact ⟨hsched, hsteps, hengine⟩
  · exact ⟨rfl, rfl, rfl⟩

/-- While a `STOP` is requested, any turn but reset and those of `A_OUT` and `A_ENG` leaves it where it was. -/
theorem stopUnmoved_of_other {s t : State} {e : Event} (hwait : s.ctl = .waitStop)
    (hturn : e.turn ≠ .reset ∧ e.turn ≠ .agent .out) (heng : e.turn ≠ .agent .eng) (h : step (s.offer e) = .next t) :
    StopUnmoved s t := by
  match he : e.turn with
  | .reset => exact absurd he hturn.1
  | .agent .out => exact absurd he hturn.2
  | .agent .eng => exact absurd he heng
  | .agent .mic => exact stopUnmoved_of_port (p := .mic) nofun nofun he h
  | .agent .ref => exact stopUnmoved_of_port (p := .ref) nofun nofun he h
  | .agent .ctl =>
    rw [step_offer_waiting he hwait] at h; cases h
    exact ⟨rfl, rfl, rfl⟩

/-- `t` is a later state than `s`, its `STOP` still requested and at most `n` engine steps away. -/
structure StopWithin (n : Nat) (s t : State) : Prop where
  inv : Inv t
  sched : t.sched = .stopRequested
  steps : t.stepsToCheck ≤ n
  engine : t.engine = s.engine

/-- The step to `u` has answered the `STOP`, with the engine as it is in `s` up to then. -/
def StopReturned (s u : State) : Prop := ∃ t, StopAnswered t u ∧ t.engine = s.engine

/-- One event with one input empty: the `STOP` is answered, or no further away, and on the engine thread's turn nearer. -/
theorem StopWithin.step_offer {n : Nat} {s t : State} {e : Event} (h : StopWithin n s t) (hempty : t.mic.buf = [] ∨ t.ref.buf = [])
    (hturn : e.turn ≠ .reset ∧ e.turn ≠ .agent .out) :
    ∃ u, step (t.offer e) = .next u ∧
      (StopReturned s u ∨ StopWithin n s u ∧ (e.turn = .agent .eng → StopWithin (n - 1) s u)) := by
  have hinv := h.inv.offer e
  obtain ⟨u, hu⟩ := answers_step hinv.taps_pos hinv.storage
  have hsteps := h.steps
  refine ⟨u, hu, ?_⟩
  by_cases heng : e.turn = .agent .eng
  · rw [step_offer_engine heng] at hu
    have hinv' : Inv { t with inbox := t.inbox.append e.words } := h.inv.schedule _ t.turns t.curPort
    rcases engineStep_of_stopRequested hinv' h.sched hempty hu with hdone | hnear
    · exact .inl ⟨_, hdone, h.engine⟩
    · have hlt : u.stepsToCheck < t.stepsToCheck := hnear.nearer
      have hwithin (m : Nat) (hm : u.stepsToCheck ≤ m) : StopWithin m s u :=
        ⟨inv_engineStep hinv' hu, hnear.sched.trans h.sched, hm, hnear.engine.trans h.engine⟩
      exact .inr ⟨hwithin n (by omega), fun _ => hwithin (n - 1) (by omega)⟩
  · obtain ⟨hsched, hsame, hengine⟩ := stopUnmoved_of_other (h.inv.waits.2 h.sched) hturn heng hu
    exact .inr ⟨⟨inv_step hinv hu, hsched.trans h.sched, hsame ▸ h.steps, hengine.trans h.engine⟩, fun he => absurd he heng⟩

section Fair

variable {events : Schedule} {s : State}
  (hturns : ∀ k, (events k).turn ≠ .reset ∧ (events k).turn ≠ .agent .out)
  (hempty : ∀ k t, follow events s k = .next t → t.mic.buf = [] ∨ t.ref.buf = [])
include hturns hempty

/-- As long as it is not answered, the `STOP` comes no further away. -/
theorem stopReturned_or_within {n k : Nat} {t : State} (ht : follow events s k = .next t) (h : StopWithin n s t) (d : Nat) :
    (∃ j u, follow events s j = .next u ∧ StopReturned s u) ∨ ∃ u, follow events s (k + d) = .next u ∧ StopWithin n s u := by
  induction d with
  | zero => exact .inr ⟨t, ht, h⟩
  | succ d ih =>
    rcases ih with hdone | ⟨u, hu, hwithin⟩
    · exact .inl hdone
    · obtain ⟨u', hstep, hdone | ⟨hwithin', -⟩⟩ := hwithin.step_offer (hempty _ u hu) (hturns (k + d))
      · exact .inl ⟨_, u', follow_next hu hstep, hdone⟩
      · exact .inr ⟨u', follow_next hu hstep, hwithin'⟩

/-- Weak fairness gives the engine thread the turns it needs, each of them bringing the answer nearer. -/
theorem exists_stopReturned (hfair : WeaklyFair events s) {n k : Nat} {t : State} (ht : follow events s k = .next t)
    (h : StopWithin n s t) : ∃ j u, follow events s j = .next u ∧ StopReturned s u := by
  induction n generalizing k t with
  | zero => exact absurd (stepsToCheck_pos t) (not_lt.2 h.steps)
  | succ n ih =>
    obtain ⟨j, hj, hturn⟩ := hfair k
    obtain ⟨d, rfl⟩ := Nat.exists_eq_add_of_le hj
    rcases stopReturned_or_within hturns hempty ht h d with hdone | ⟨u, hu, hwithin⟩
    · exact hdone
    · rcases hturn with heng | hnoThread
      · obtain ⟨u', hstep, hdone | ⟨-, hnear⟩⟩ := hwithin.step_offer (hempty _ u hu) (hturns (k + d))
        · exact ⟨_, u', follow_next hu hstep, hdone⟩
        · exact ih (follow_next hu hstep) (hnear heng)
      · have hruns := hnoThread u hu
        rw [hwithin.sched] at hruns; cases hruns

end Fair

/-! ### A fair schedule that postpones the `STOP` for ever -/

/-- One tap, and FIFOs of one sample. -/
def oneTap : Params := { Config.params with n := 1, capMic := 1, capRef := 1, capOut := 1, refill := 1 }

theorem oneTap_valid : oneTap.Valid :=
  { params_valid with
    taps := by decide
    mic := by decide
    ref := by decide
    out := by decide
    refill := by decide }

/-- The machine that has heard nothing but silence and closes its gate to it (`THR` = 0), in its drain loop with a `STOP`
requested; `past` gives what it has computed and answered so far. -/
def quiet (mic ref out : List Sample) (past : State) : State :=
  { past with
    cfg := oneTap
    mic := { cap := 1, buf := mic }, ref := { cap := 1, buf := ref }, out := { cap := 1, buf := out }
    dl := [silence], w := [silence], mu := 0x3F800000, epsr := 0x3F800000, thr := silence, telemEn := false
    sched := .stopRequested, ph := .drain, killPending := true, fault := false, ctl := .waitStop
    inbox := { mic := [], ref := [], out := [], ctl := [] } }

theorem inv_quiet (past : State) : Inv (quiet [] [] [] past) where
  config := oneTap_valid
  caps := ⟨rfl, rfl, rfl⟩
  storage := rfl
  weights := fun hnum _ x hx => hnum x (by rw [List.mem_singleton.1 hx]; decide)
  phase := nofun
  faulted := ⟨nofun, nofun⟩
  requested := fun _ => rfl
  pending := fun _ => .inl rfl
  waits := ⟨fun _ => rfl, fun _ => rfl⟩
  direct := nofun

/-- `adapt` on a silent window and a silent target leaves the weight and raises no fault (R177, R182). -/
theorem adapt_quiet (k : Nat) : adapt binary32 0x3F800000 0x3F800000 silence [silence] [silence] silence k =
    { output := silence, novelty := silence, w := [silence], applied := false, nan := false, draws := k } := by
  have hterms : adaptTerms binary32 0x3F800000 0x3F800000 [silence] [silence] silence = _ :=
    adaptTerms_of_silence (w := [silence]) (List.forall_mem_singleton.2 (by decide)) (by decide) (by decide) (by decide)
      (by decide)
  rw [adapt_of_no_nan _ _ _ _ _ _ _ _ (by rw [hterms]; decide), hterms]
  rfl

/-- The events of one round: a silent sample at each input, the iteration they allow, and its sample taken out. -/
def roundEvent : Fin 4 → Event
  | 0 => { words := { mic := [encode (.pushMic silence)], ref := [], out := [], ctl := [] }, turn := .agent .mic }
  | 1 => { words := { mic := [], ref := [encode (.pushRef silence)], out := [], ctl := [] }, turn := .agent .ref }
  | 2 => { words := { mic := [], ref := [], out := [], ctl := [] }, turn := .agent .eng }
  | 3 => { words := { mic := [], ref := [], out := [encode .popOut], ctl := [] }, turn := .agent .out }

/-- Round after round without end. -/
def rounds : Schedule := fun k => roundEvent (Fin.ofNat 4 k)

/-- The states at each of the four events of a round. -/
inductive InRound : Fin 4 → State → Prop where
  | start (past : State) : InRound 0 (quiet [] [] [] past)
  | micHeld (past : State) : InRound 1 (quiet [silence] [] [] past)
  | work (past : State) : InRound 2 (quiet [silence] [silence] [] past)
  | filtered (past : State) (x : Sample) : InRound 3 (quiet [] [] [x] past)

theorem step_quiet_start (past : State) : step ((quiet [] [] [] past).offer (roundEvent 0)) =
    .next (quiet [silence] [] [] ({ past with curPort := .mic }.reply .ok 0 0)) := rfl

theorem step_quiet_micHeld (past : State) : step ((quiet [silence] [] [] past).offer (roundEvent 1)) =
    .next (quiet [silence] [silence] [] ({ past with curPort := .ref }.reply .ok 0 0)) := rfl

theorem step_quiet_filtered (past : State) (x : Sample) : step ((quiet [] [] [x] past).offer (roundEvent 3)) =
    .next (quiet [] [] [] ({ past with curPort := .out }.reply .ok 0 x)) := rfl

/-- The iteration of a round raises no fault: one sample is pushed, the window and the weight stay silent. -/
theorem step_quiet_work (past : State) : ∃ x past', step ((quiet [silence] [silence] [] past).offer (roundEvent 2)) =
    .next (quiet [] [] [x] past') := by
  have hadapt : adaptOfIteration silence silence (quiet [silence] [silence] [] past) = _ := adapt_quiet past.draws
  have hiterate := iterate_of_not_nan (s := quiet [silence] [silence] [] past) rfl rfl Nat.one_pos rfl (by rw [hadapt])
  rw [countIteration_of_off_stride (.inl rfl)] at hiterate
  have hw : (afterStepFive silence silence [] [] (quiet [silence] [silence] [] past)).w = [silence] :=
    congrArg AdaptResult.w hadapt
  have hstep : step ((quiet [silence] [silence] [] past).offer (roundEvent 2)) = _ :=
    (engineStep_drain rfl rfl).trans (drainStep_of_ok hiterate)
  rw [hw] at hstep
  exact ⟨_, { afterStepFive silence silence [] [] (quiet [silence] [silence] [] past) with
    iter := past.iter + 1, worked := true }, hstep⟩

/-- Each event of a round leads to the next. -/
theorem InRound.step_offer {i : Fin 4} {t : State} (h : InRound i t) :
    ∃ u, step (t.offer (roundEvent i)) = .next u ∧ InRound (i + 1) u := by
  cases h with
  | start past => exact ⟨_, step_quiet_start past, .micHeld _⟩
  | micHeld past => exact ⟨_, step_quiet_micHeld past, .work _⟩
  | work past =>
    obtain ⟨x, past', hstep⟩ := step_quiet_work past
    exact ⟨_, hstep, .filtered past' x⟩
  | filtered past x => exact ⟨_, step_quiet_filtered past x, .start _⟩

theorem follow_rounds (past : State) (k : Nat) :
    ∃ t, follow rounds (quiet [] [] [] past) k = .next t ∧ InRound (Fin.ofNat 4 k) t := by
  induction k with
  | zero => exact ⟨_, rfl, .start past⟩
  | succ k ih =>
    obtain ⟨t, ht, hround⟩ := ih
    obtain ⟨u, hstep, hnext⟩ := hround.step_offer
    have hk : Fin.ofNat 4 (k + 1) = Fin.ofNat 4 k + 1 := by ext; simp [Fin.val_add]
    exact ⟨u, follow_next ht hstep, hk ▸ hnext⟩

theorem weaklyFair_rounds (s : State) : WeaklyFair rounds s := by
  intro k
  have hk : Fin.ofNat 4 (4 * k + 2) = 2 := by ext; simp [Fin.ofNat]
  exact ⟨4 * k + 2, by omega, .inl (by rw [rounds, hk]; rfl)⟩

theorem InRound.sched {i : Fin 4} {t : State} (h : InRound i t) : t.sched = .stopRequested := by cases h <;> rfl

/-- The engine thread finds work whenever it has its turn. -/
theorem InRound.cond_of_engine {i : Fin 4} {t : State} (h : InRound i t) (he : (roundEvent i).turn = .agent .eng) :
    t.ph = .drain ∧ t.cond = true := by
  cases h with
  | work => exact ⟨rfl, rfl⟩
  | start | micHeld | filtered => cases he

/-! ### The statement -/

/-- Settles O51: the engine thread alone by `reaches_stopAnswered`, any weakly fair schedule by `exists_stopReturned`, and
`rounds` postpones the `STOP` for ever. -/
theorem stopReturnsWithoutData : Obligations.StopReturnsWithoutData := by
  refine ⟨fun s hinv hreq hturns hempty => ?alone, fun events s hinv hreq hfair hturns hempty => ?fair, ?postponed⟩
  case alone =>
    obtain ⟨k, hk, t, hrun, hdone⟩ := reaches_stopAnswered hinv hreq hturns hempty (stepsToCheck_le s)
    exact ⟨k, hk, t, hrun.run, hdone.sched, hdone.ctl, hdone.killPending, hdone.responses, hdone.engine⟩
  case fair =>
    obtain ⟨k, u, hrun, t, hdone, hengine⟩ :=
      exists_stopReturned hturns hempty hfair (follow_zero ..) ⟨hinv, hreq, le_rfl, rfl⟩
    exact ⟨k, u, hrun, hdone.sched, hdone.ctl, hdone.killPending, by rw [hdone.responses, List.getLast?_concat],
      hdone.engine.trans hengine⟩
  case postponed =>
    refine ⟨rounds, quiet [] [] [] State.reset, inv_quiet _, rfl, weaklyFair_rounds _, fun k => ?_⟩
    obtain ⟨t, ht, hround⟩ := follow_rounds State.reset k
    exact ⟨t, ht, hround.sched, hround.cond_of_engine⟩

end Sys2Proof.Machine
end

section
/-! Events and conditions (R245, R252, R253): the `NoWork` of an `ITER`, and the fault, which nothing but reset undoes. -/

namespace Sys2Proof.Machine

/-! ### `ITER` without work -/

/-- An iteration that finds no work is answered `NoWork` (R203). -/
theorem iterCommand_of_noWork {s : State} (h : s.cond = false) : iterCommand s = .next (s.reply .noWork 0 0) := by
  rw [iterCommand, iterate_noWork h]

/-- Settles O29: each of the three hypotheses makes the loop condition false. -/
theorem iterWithoutWorkAnswersNoWork : Obligations.IterWithoutWorkAnswersNoWork := fun _ d h =>
  (gate_engineOnly d).trans (iterCommand_of_noWork (cond_eq_false h))

/-! ### After the fault -/

/-- R220 lists no transition out of `FAULTED`. -/
theorem eq_faulted_of_mayBecome {c : Sched} (h : Sched.faulted.mayBecome c = true) : c = .faulted := by
  cases c with
  | faulted => rfl
  | idle | running | stopRequested | stopped => cases h

theorem engine_setFifo (s : State) (q : FifoId) (f : Fifo) : (s.setFifo q f).engine = s.engine := by cases q <;> rfl

/-- After the fault a command can only answer, move samples of a FIFO or be an `UNPARK`: what else could change anything needs
the engine held by `A_CTL`, or a running thread to stop (R113, R253). -/
theorem exec_of_faulted {i : Instr} {s t : State} (hfaulted : s.sched = .faulted) (h : exec i s = .next t) :
    t.engine = s.engine ∧ t.ph = s.ph := by
  have nobodyHolds (held : s.sched.held = true) : False := ne_faulted_of_held held hfaulted
  cases exec_effect h with
  | reply | unpark => exact ⟨rfl, rfl⟩
  | push _ q | pop _ q => exact ⟨engine_setFifo s q _, setFifo_ph s q _⟩
  | stop _ other | stopAgain _ other => exact absurd (other.symm.trans hfaulted) nofun
  | start _ held => exact (nobodyHolds held).elim
  | bqinitLp _ _ _ d | bqinitHp _ _ _ d | bqtick _ _ _ d | casc _ d | dlpush _ d | dlinit d | adapt _ d | adaptFault _ d
  | enginit _ d | iterOk d | iterFault d | runonce d | telemEn _ _ d | thr _ _ d => exact (nobodyHolds d.2).elim

/-- After the fault the engine thread is gone (R231, R252). -/
theorem engineStep_of_faulted {s t : State} (hfaulted : s.sched = .faulted) (h : engineStep s = .next t) : t = s := by
  rw [engineStep_noThread (by rw [hfaulted]; rfl)] at h
  exact (Host.Outcome.next.inj h).symm

/-- After the fault no step but reset touches the engine or the phase. -/
theorem step_of_faulted {s t : State} (hinv : Inv s) (hfaulted : s.sched = .faulted) (h : step s = .next t)
    (hreset : s.turns.head? ≠ some .reset) : t.engine = s.engine ∧ t.ph = s.ph := by
  cases step_cases h with
  | reset hr => exact absurd hr hreset
  | stay | illegal => exact ⟨rfl, rfl⟩
  | runOnce r t busy => exact absurd hfaulted (ne_faulted_of_held (hinv.direct ⟨r, busy⟩))
  | engine t he => rw [engineStep_of_faulted (by exact hfaulted) he]; exact ⟨rfl, rfl⟩
  | exec p w ws i t _ _ _ he => exact (exec_of_faulted (by exact hfaulted) he :)

/-- Settles O50: no transition of O49 leads out of `FAULTED`, the invariant of the next state ties `FAULT` to it, and
`step_of_faulted` keeps the engine and the phase. -/
theorem onlyResetLeavesTheFault : Obligations.OnlyResetLeavesTheFault := by
  intro s t hinv hfaulted h hreset
  have hmay := schedulerTransitionsAreThoseListed s t hinv h hreset
  have hstays : t.sched = .faulted := eq_faulted_of_mayBecome (hfaulted ▸ hmay)
  exact ⟨hstays, (inv_step hinv h).faulted.2 hstays, step_of_faulted hinv hfaulted h hreset⟩

end Sys2Proof.Machine
end
